-- ==== Sys2Proof/Word.lean ====
section
/-! DEFINITION. The words of the machine: 8-bit data, 16-bit instruction words and addresses, register numbers. -/

namespace Sys2Proof

/-- A register or memory cell: 8 bits (10_state.md R10, R25). -/
abbrev Byte := BitVec 8

/-- An instruction word, `pc`, `I` or a return address: 16 bits (10_state.md R13, R16, R19, 30_encoding.md R60). -/
abbrev Word := BitVec 16

/-- The number of a general register, 0 to 15 (10_state.md R10). -/
abbrev Reg := Fin 16

/-- `VF`: register 15, where a flag goes (10_state.md R11). -/
abbrev flagReg : Reg := 15

end Sys2Proof
end

