-- ==== Sys2Proof/Syntax.lean ====
section
/-! DEFINITION. The 34 instructions of 30_encoding.md R66, one constructor per row, in the table's order. -/

namespace Sys2Proof

/-- An instruction. Registers carry their bound; an address operand `nnn` is already zero-extended to 16 bits
(30_encoding.md R63) and a sprite height `n` is a count, so WellFormed holds their bounds. -/
inductive Instr where
  /-- CLS, 00E0 (R130). -/
  | cls
  /-- RET, 00EE (R83). -/
  | ret
  /-- JP nnn, 1nnn (R84). -/
  | jp (nnn : Word)
  /-- CALL nnn, 2nnn (R85). -/
  | call (nnn : Word)
  /-- SE Vx,kk, 3xkk (R86). -/
  | seImm (x : Reg) (kk : Byte)
  /-- SNE Vx,kk, 4xkk (R87). -/
  | sneImm (x : Reg) (kk : Byte)
  /-- SE Vx,Vy, 5xy0 (R88). -/
  | seReg (x y : Reg)
  /-- LD Vx,kk, 6xkk (R102). -/
  | ldImm (x : Reg) (kk : Byte)
  /-- ADD Vx,kk, 7xkk (R103). -/
  | addImm (x : Reg) (kk : Byte)
  /-- LD Vx,Vy, 8xy0 (R104). -/
  | ldReg (x y : Reg)
  /-- OR Vx,Vy, 8xy1 (R105). -/
  | orReg (x y : Reg)
  /-- AND Vx,Vy, 8xy2 (R106). -/
  | andReg (x y : Reg)
  /-- XOR Vx,Vy, 8xy3 (R107). -/
  | xorReg (x y : Reg)
  /-- ADD Vx,Vy, 8xy4 (R108). -/
  | addReg (x y : Reg)
  /-- SUB Vx,Vy, 8xy5 (R109). -/
  | subReg (x y : Reg)
  /-- SHR Vx, 8xy6 (R110); the y field is carried and ignored (R67). -/
  | shr (x y : Reg)
  /-- SUBN Vx,Vy, 8xy7 (R111). -/
  | subnReg (x y : Reg)
  /-- SHL Vx, 8xyE (R112); the y field is carried and ignored (R67). -/
  | shl (x y : Reg)
  /-- SNE Vx,Vy, 9xy0 (R89). -/
  | sneReg (x y : Reg)
  /-- LD I,nnn, Annn (R120). -/
  | ldI (nnn : Word)
  /-- JP V0,nnn, Bnnn (R90). -/
  | jpV0 (nnn : Word)
  /-- RND Vx,kk, Cxkk (R113). -/
  | rnd (x : Reg) (kk : Byte)
  /-- DRW Vx,Vy,n, Dxyn (R131). -/
  | drw (x y : Reg) (n : Nat)
  /-- SKP Vx, Ex9E (R141). -/
  | skp (x : Reg)
  /-- SKNP Vx, ExA1 (R142). -/
  | sknp (x : Reg)
  /-- LD Vx,DT, Fx07 (R144). -/
  | ldVxDt (x : Reg)
  /-- LD Vx,K, Fx0A (R143). -/
  | ldVxK (x : Reg)
  /-- LD DT,Vx, Fx15 (R145). -/
  | ldDtVx (x : Reg)
  /-- LD ST,Vx, Fx18 (R146). -/
  | ldStVx (x : Reg)
  /-- ADD I,Vx, Fx1E (R121). -/
  | addI (x : Reg)
  /-- LD F,Vx, Fx29 (R122). -/
  | ldF (x : Reg)
  /-- LD B,Vx, Fx33 (R123). -/
  | ldB (x : Reg)
  /-- LD [I],Vx, Fx55 (R124). -/
  | ldMemVx (x : Reg)
  /-- LD Vx,[I], Fx65 (R125). -/
  | ldVxMem (x : Reg)
  deriving DecidableEq, Repr

end Sys2Proof
end

