-- ==== Sys2Proof/WellFormed.lean ====
section
/-! DEFINITION. Which instruction terms are instructions: an address operand is a 12-bit value and a sprite
height a 4-bit count (30_encoding.md R63). Register numbers and immediates carry their bounds in their types. -/

namespace Sys2Proof

/-- `nnn` is a 12-bit unsigned value (30_encoding.md R63). -/
def addressFits (nnn : Word) : Bool := decide (nnn.toNat < 4096)

/-- `n` is a 4-bit unsigned count, 0..15 (30_encoding.md R63). -/
def heightFits (n : Nat) : Bool := decide (n < 16)

/-- The instruction is one that some word encodes. -/
def Instr.wellFormed : Instr → Bool
  | .jp nnn => addressFits nnn
  | .call nnn => addressFits nnn
  | .ldI nnn => addressFits nnn
  | .jpV0 nnn => addressFits nnn
  | .drw _ _ n => heightFits n
  | .cls => true
  | .ret => true
  | .seImm _ _ => true
  | .sneImm _ _ => true
  | .seReg _ _ => true
  | .ldImm _ _ => true
  | .addImm _ _ => true
  | .ldReg _ _ => true
  | .orReg _ _ => true
  | .andReg _ _ => true
  | .xorReg _ _ => true
  | .addReg _ _ => true
  | .subReg _ _ => true
  | .shr _ _ => true
  | .subnReg _ _ => true
  | .shl _ _ => true
  | .sneReg _ _ => true
  | .rnd _ _ => true
  | .skp _ => true
  | .sknp _ => true
  | .ldVxDt _ => true
  | .ldVxK _ => true
  | .ldDtVx _ => true
  | .ldStVx _ => true
  | .addI _ => true
  | .ldF _ => true
  | .ldB _ => true
  | .ldMemVx _ => true
  | .ldVxMem _ => true

end Sys2Proof
end

