-- ==== Sys2Proof/Decode.lean ====
section
/-! DEFINITION. The decoder of 30_encoding.md R64, total on all words and on any bytes, and the encoder written
from the same opcode map (R66). DEDUCED and PRESUMED points: log 4 (bit patterns), log 5 (strict decode). -/

namespace Sys2Proof

/-! ## Fields (30_encoding.md R61) -/

/-- `op = w[15:12]`, the family selector. -/
def opField (w : Word) : BitVec 4 := w.extractLsb' 12 4

/-- `x = w[11:8]`. -/
def xField (w : Word) : Reg := ⟨(w.extractLsb' 8 4).toNat, (w.extractLsb' 8 4).isLt⟩

/-- `y = w[7:4]`. -/
def yField (w : Word) : Reg := ⟨(w.extractLsb' 4 4).toNat, (w.extractLsb' 4 4).isLt⟩

/-- `n = w[3:0]`. -/
def nField (w : Word) : Nat := (w.extractLsb' 0 4).toNat

/-- `kk = w[7:0]`. -/
def kkField (w : Word) : Byte := w.extractLsb' 0 8

/-- `nnn = w[11:0]`, zero-extended to 16 bits (R63). -/
def nnnField (w : Word) : Word := (w.extractLsb' 0 12).setWidth 16

/-! ## Decoding (30_encoding.md R64) -/

/-- Why bytes are not an instruction. -/
inductive DecodeError where
  /-- The word matches no row of the opcode map: `Unknown` (R64, R68). -/
  | unknownWord (w : Word)
  /-- Fewer than two bytes are left; no fetch of the machine can see this, since memory wraps. -/
  | truncated
  deriving DecidableEq, Repr

/-- Family 0: only the two whole words 00E0 and 00EE (R67 a). -/
def decodeFamily0 (w : Word) : Except DecodeError Instr :=
  if w = 0x00E0 then .ok .cls
  else if w = 0x00EE then .ok .ret
  else .error (.unknownWord w)

/-- Family 8: the sub-opcode is the low nibble, 0..7 or E (R67 c). -/
def decodeFamily8 (w : Word) : Except DecodeError Instr :=
  match nField w with
  | 0x0 => .ok (.ldReg (xField w) (yField w))
  | 0x1 => .ok (.orReg (xField w) (yField w))
  | 0x2 => .ok (.andReg (xField w) (yField w))
  | 0x3 => .ok (.xorReg (xField w) (yField w))
  | 0x4 => .ok (.addReg (xField w) (yField w))
  | 0x5 => .ok (.subReg (xField w) (yField w))
  | 0x6 => .ok (.shr (xField w) (yField w))
  | 0x7 => .ok (.subnReg (xField w) (yField w))
  | 0xE => .ok (.shl (xField w) (yField w))
  | _ => .error (.unknownWord w)

/-- Family E: the sub-opcode is the whole low byte (R67 d). -/
def decodeFamilyE (w : Word) : Except DecodeError Instr :=
  match (kkField w).toNat with
  | 0x9E => .ok (.skp (xField w))
  | 0xA1 => .ok (.sknp (xField w))
  | _ => .error (.unknownWord w)

/-- Family F: the sub-opcode is the whole low byte (R67 d). -/
def decodeFamilyF (w : Word) : Except DecodeError Instr :=
  match (kkField w).toNat with
  | 0x07 => .ok (.ldVxDt (xField w))
  | 0x0A => .ok (.ldVxK (xField w))
  | 0x15 => .ok (.ldDtVx (xField w))
  | 0x18 => .ok (.ldStVx (xField w))
  | 0x1E => .ok (.addI (xField w))
  | 0x29 => .ok (.ldF (xField w))
  | 0x33 => .ok (.ldB (xField w))
  | 0x55 => .ok (.ldMemVx (xField w))
  | 0x65 => .ok (.ldVxMem (xField w))
  | _ => .error (.unknownWord w)

/-- The decoder: strict, total on all 65536 words (R64, R67, log 5). -/
def decodeWord (w : Word) : Except DecodeError Instr :=
  match (opField w).toNat with
  | 0x0 => decodeFamily0 w
  | 0x1 => .ok (.jp (nnnField w))
  | 0x2 => .ok (.call (nnnField w))
  | 0x3 => .ok (.seImm (xField w) (kkField w))
  | 0x4 => .ok (.sneImm (xField w) (kkField w))
  | 0x5 => if nField w = 0 then .ok (.seReg (xField w) (yField w)) else .error (.unknownWord w)
  | 0x6 => .ok (.ldImm (xField w) (kkField w))
  | 0x7 => .ok (.addImm (xField w) (kkField w))
  | 0x8 => decodeFamily8 w
  | 0x9 => if nField w = 0 then .ok (.sneReg (xField w) (yField w)) else .error (.unknownWord w)
  | 0xA => .ok (.ldI (nnnField w))
  | 0xB => .ok (.jpV0 (nnnField w))
  | 0xC => .ok (.rnd (xField w) (kkField w))
  | 0xD => .ok (.drw (xField w) (yField w) (nField w))
  | 0xE => decodeFamilyE w
  | 0xF => decodeFamilyF w
  | _ => .error (.unknownWord w)

/-- `{hi, lo}`: the byte at the lower address supplies bits 15:8 (20_memory.md R43). -/
def composeWord (hi lo : Byte) : Word := hi ++ lo

/-- The high byte of a word, stored at the lower address (20_memory.md R43). -/
def highByte (w : Word) : Byte := w.extractLsb' 8 8

/-- The low byte of a word, stored at the higher address (20_memory.md R43). -/
def lowByte (w : Word) : Byte := w.extractLsb' 0 8

/-- Decode the first instruction of a byte sequence, total on any bytes; the rest of the bytes comes back. -/
def decodeBytes : List Byte → Except DecodeError (Instr × List Byte)
  | hi :: lo :: rest => (decodeWord (composeWord hi lo)).map fun i => (i, rest)
  | _ => .error .truncated

/-! ## Encoding (30_encoding.md R62, R66) -/

/-- Format A: `{op, nnn}`. -/
def formatA (op : Nat) (nnn : Word) : Word := BitVec.ofNat 16 (op * 0x1000 + nnn.toNat % 0x1000)

/-- Formats XK and X: `{op, x, kk}`. -/
def formatXK (op : Nat) (x : Reg) (kk : Byte) : Word := BitVec.ofNat 16 (op * 0x1000 + x.val * 0x100 + kk.toNat)

/-- Formats XY and XYN: `{op, x, y, n}`. -/
def formatXY (op : Nat) (x y : Reg) (n : Nat) : Word :=
  BitVec.ofNat 16 (op * 0x1000 + x.val * 0x100 + y.val * 0x10 + n % 0x10)

/-- The word of an instruction, from the table of R66. -/
def encode : Instr → Word
  | .cls => 0x00E0
  | .ret => 0x00EE
  | .jp nnn => formatA 0x1 nnn
  | .call nnn => formatA 0x2 nnn
  | .seImm x kk => formatXK 0x3 x kk
  | .sneImm x kk => formatXK 0x4 x kk
  | .seReg x y => formatXY 0x5 x y 0x0
  | .ldImm x kk => formatXK 0x6 x kk
  | .addImm x kk => formatXK 0x7 x kk
  | .ldReg x y => formatXY 0x8 x y 0x0
  | .orReg x y => formatXY 0x8 x y 0x1
  | .andReg x y => formatXY 0x8 x y 0x2
  | .xorReg x y => formatXY 0x8 x y 0x3
  | .addReg x y => formatXY 0x8 x y 0x4
  | .subReg x y => formatXY 0x8 x y 0x5
  | .shr x y => formatXY 0x8 x y 0x6
  | .subnReg x y => formatXY 0x8 x y 0x7
  | .shl x y => formatXY 0x8 x y 0xE
  | .sneReg x y => formatXY 0x9 x y 0x0
  | .ldI nnn => formatA 0xA nnn
  | .jpV0 nnn => formatA 0xB nnn
  | .rnd x kk => formatXK 0xC x kk
  | .drw x y n => formatXY 0xD x y n
  | .skp x => formatXK 0xE x 0x9E
  | .sknp x => formatXK 0xE x 0xA1
  | .ldVxDt x => formatXK 0xF x 0x07
  | .ldVxK x => formatXK 0xF x 0x0A
  | .ldDtVx x => formatXK 0xF x 0x15
  | .ldStVx x => formatXK 0xF x 0x18
  | .addI x => formatXK 0xF x 0x1E
  | .ldF x => formatXK 0xF x 0x29
  | .ldB x => formatXK 0xF x 0x33
  | .ldMemVx x => formatXK 0xF x 0x55
  | .ldVxMem x => formatXK 0xF x 0x65

/-- The two bytes of an instruction as they stand in memory, high byte first (R60). -/
def encodeBytes (i : Instr) : List Byte := [highByte (encode i), lowByte (encode i)]

/-! ## The opcode map as data (30_encoding.md R66) -/

/-- One row of the opcode map: a word `w` selects the row iff `w &&& mask = pattern`. -/
structure Row where
  mnemonic : String
  mask : Word
  pattern : Word
  deriving DecidableEq, Repr

/-- The row a word selects (R66). -/
def Row.selectedBy (r : Row) (w : Word) : Bool := w &&& r.mask == r.pattern

/-- The row of an instruction, with the table's mnemonic. -/
def rowOf : Instr → Row
  | .cls => ⟨"CLS", 0xFFFF, 0x00E0⟩
  | .ret => ⟨"RET", 0xFFFF, 0x00EE⟩
  | .jp _ => ⟨"JP_nnn", 0xF000, 0x1000⟩
  | .call _ => ⟨"CALL_nnn", 0xF000, 0x2000⟩
  | .seImm _ _ => ⟨"SE_Vx_kk", 0xF000, 0x3000⟩
  | .sneImm _ _ => ⟨"SNE_Vx_kk", 0xF000, 0x4000⟩
  | .seReg _ _ => ⟨"SE_Vx_Vy", 0xF00F, 0x5000⟩
  | .ldImm _ _ => ⟨"LD_Vx_kk", 0xF000, 0x6000⟩
  | .addImm _ _ => ⟨"ADD_Vx_kk", 0xF000, 0x7000⟩
  | .ldReg _ _ => ⟨"LD_Vx_Vy", 0xF00F, 0x8000⟩
  | .orReg _ _ => ⟨"OR_Vx_Vy", 0xF00F, 0x8001⟩
  | .andReg _ _ => ⟨"AND_Vx_Vy", 0xF00F, 0x8002⟩
  | .xorReg _ _ => ⟨"XOR_Vx_Vy", 0xF00F, 0x8003⟩
  | .addReg _ _ => ⟨"ADD_Vx_Vy", 0xF00F, 0x8004⟩
  | .subReg _ _ => ⟨"SUB_Vx_Vy", 0xF00F, 0x8005⟩
  | .shr _ _ => ⟨"SHR_Vx", 0xF00F, 0x8006⟩
  | .subnReg _ _ => ⟨"SUBN_Vx_Vy", 0xF00F, 0x8007⟩
  | .shl _ _ => ⟨"SHL_Vx", 0xF00F, 0x800E⟩
  | .sneReg _ _ => ⟨"SNE_Vx_Vy", 0xF00F, 0x9000⟩
  | .ldI _ => ⟨"LD_I_nnn", 0xF000, 0xA000⟩
  | .jpV0 _ => ⟨"JP_V0_nnn", 0xF000, 0xB000⟩
  | .rnd _ _ => ⟨"RND_Vx_kk", 0xF000, 0xC000⟩
  | .drw _ _ _ => ⟨"DRW_Vx_Vy_n", 0xF000, 0xD000⟩
  | .skp _ => ⟨"SKP_Vx", 0xF0FF, 0xE09E⟩
  | .sknp _ => ⟨"SKNP_Vx", 0xF0FF, 0xE0A1⟩
  | .ldVxDt _ => ⟨"LD_Vx_DT", 0xF0FF, 0xF007⟩
  | .ldVxK _ => ⟨"LD_Vx_K", 0xF0FF, 0xF00A⟩
  | .ldDtVx _ => ⟨"LD_DT_Vx", 0xF0FF, 0xF015⟩
  | .ldStVx _ => ⟨"LD_ST_Vx", 0xF0FF, 0xF018⟩
  | .addI _ => ⟨"ADD_I_Vx", 0xF0FF, 0xF01E⟩
  | .ldF _ => ⟨"LD_F_Vx", 0xF0FF, 0xF029⟩
  | .ldB _ => ⟨"LD_B_Vx", 0xF0FF, 0xF033⟩
  | .ldMemVx _ => ⟨"LD__I__Vx", 0xF0FF, 0xF055⟩
  | .ldVxMem _ => ⟨"LD_Vx__I", 0xF0FF, 0xF065⟩

/-- One instruction of each row, in the order of R66. -/
def rowSamples : List Instr :=
  [.cls, .ret, .jp 0, .call 0, .seImm 0 0, .sneImm 0 0, .seReg 0 0, .ldImm 0 0, .addImm 0 0]
  ++ [.ldReg 0 0, .orReg 0 0, .andReg 0 0, .xorReg 0 0, .addReg 0 0, .subReg 0 0, .shr 0 0, .subnReg 0 0, .shl 0 0]
  ++ [.sneReg 0 0, .ldI 0, .jpV0 0, .rnd 0 0, .drw 0 0 0, .skp 0, .sknp 0]
  ++ [.ldVxDt 0, .ldVxK 0, .ldDtVx 0, .ldStVx 0, .addI 0, .ldF 0, .ldB 0, .ldMemVx 0, .ldVxMem 0]

/-- The opcode map of R66: 34 rows. -/
def opcodeTable : List Row := rowSamples.map rowOf

/-! ## The host's view of the decoder -/

/-- The word whose bits `nbits - 1` down to 0 are those of `w` and whose other bits are 0. -/
def tableWord (nbits w : Nat) : Word := BitVec.ofNat 16 (w % 2 ^ nbits)

/-- The instruction the decoder reads from an instruction whose bits are `w`, laid out as the hardware stores it:
high byte first (20_memory.md R43). Every instruction is one 16-bit word (30_encoding.md R60). -/
def decodeTableWord (nbits w : Nat) : Option Instr :=
  match decodeBytes [highByte (tableWord nbits w), lowByte (tableWord nbits w)] with
  | .ok (i, _) => some i
  | .error _ => none

end Sys2Proof
end

