-- ==== Sys2Proof/Config.lean ====
section
/-! DEFINITION. What the spec leaves open: the free inputs of a step, and the recommended stack depth.
The glyph bytes (10_state.md R27) are `Sys2Proof.Config.glyphs` in Machine/Glyphs.lean. -/

namespace Sys2Proof.Config

/-- The key levels a step samples when the agenda names none: a free 16-bit input of every step
(60_exceptions.md R171). Applied to a counter, so every draw is fresh. DESIGN CHOICE (the form), log 7. -/
opaque freeKeys : Nat → BitVec 16

/-- The random byte a step samples when the agenda names none: free, under no law
(60_exceptions.md R175). Applied to a counter, so every draw is fresh. DESIGN CHOICE (the form), log 7. -/
opaque freeRnd : Nat → Byte

/-- The `STACK_DEPTH` the reset state carries: the recommended 16 (00_scope.md R7). The parameter itself is
`Env.stackDepth`, so that a statement over all states holds for every depth. DESIGN CHOICE, log 2. -/
def defaultStackDepth : Option Nat := some 16

end Sys2Proof.Config
end

