-- ==== Sys2Proof/Machine/State.lean ====
section
/-! DEFINITION. The state of the CORE (10_state.md, its summary table), the host's side of the interface (`Env`,
which is not state of the CORE, R29), the reasons a step can stop, and the state after reset (R28, R180). -/

namespace Sys2Proof.Machine

/-- `MEM` as plain data: the cells that differ from their reset contents, addresses strictly rising
(the operations are in Machine/Memory.lean). -/
abbrev Memory := List Host.Cell

/-- `FB`: 2048 cells of 1 bit, cell `py * 64 + px` is column `px` of row `py` (10_state.md R21). A bit vector,
because the spec treats the grid as bits: drawing xors it (43_display.md R131) and `snapshot` returns 2048 bits. -/
abbrev FrameBuffer := BitVec 2048

/-- `LATCH`, the Pending-Key Latch (10_state.md R22). -/
inductive Latch where
  /-- No key is awaited. -/
  | notWaiting
  /-- Execution is suspended until a key-down event writes its code into register `x`. -/
  | waiting (x : Reg)
  deriving DecidableEq, Repr

/-- A fault record, as `FAULT` holds it and the host receives it (10_state.md R24, 60_exceptions.md R150 to R152). -/
inductive FaultRecord where
  /-- The fetched word matches no row of the opcode map (R150). -/
  | unknownInstruction (word pc : Word)
  /-- RET with an empty stack (R151). -/
  | stackUnderflow (pc : Word)
  /-- CALL with a full stack (R152). -/
  | stackOverflow (pc : Word)
  deriving DecidableEq, Repr

/-- The two inputs a step samples: the key levels, bit `c` for key `c` (60_exceptions.md R171), and the random
byte (R175). -/
structure Ports where
  keys : BitVec 16
  rnd : Byte
  deriving DecidableEq, Repr

/-- A transition the host performs on the CORE (60_exceptions.md R176). -/
inductive HostAction where
  /-- `step(keys, rnd)` (40_step_and_flow.md R80). -/
  | step (p : Ports)
  /-- `tick()` (60_exceptions.md R163). -/
  | tick
  /-- `key_down(code)` (60_exceptions.md R166); a code above 15 is refused (R167). -/
  | keyDown (code : Nat)
  /-- `snapshot()` (60_exceptions.md R172). -/
  | snapshot
  /-- `reset()` (70_reset_and_hazards.md R180). -/
  | reset
  /-- `load_program(bytes)` (70_reset_and_hazards.md R183). -/
  | loadProgram (bytes : List Byte)
  deriving DecidableEq, Repr

/-- What a transition returns to the host (40_step_and_flow.md R80, 60_exceptions.md R163, R172, R176). -/
inductive Returned where
  /-- The transition returns nothing. -/
  | nothing
  /-- A step executed an instruction. -/
  | done
  /-- A step did nothing, because the latch waits. -/
  | idle
  /-- A step raised a fault, or did nothing because one is recorded. -/
  | faulted (r : FaultRecord)
  /-- A tick returned the tone signal. -/
  | tone (on : Bool)
  /-- A snapshot returned the framebuffer. -/
  | pixels (fb : FrameBuffer)
  deriving DecidableEq, Repr

/-- Where the CORE stands in the boot sequence of 70_reset_and_hazards.md R182. -/
inductive Phase where
  /-- After `reset()`, before any load, step, tick or key event: a program may be loaded (60_exceptions.md R170). -/
  | booting
  /-- Afterwards. -/
  | running
  deriving DecidableEq, Repr

/-- The host's side of the interface: inputs, outputs and parameters, none of it state of the CORE (10_state.md R29). -/
structure Env where
  /-- The inputs the current step has sampled (40_step_and_flow.md R80). -/
  ports : Ports
  /-- How many free inputs have been drawn, log 7. -/
  draws : Nat
  /-- The host's coming transitions, oldest first; with none left the host steps with free inputs, log 8. -/
  agenda : List HostAction
  /-- Whether a program may still be loaded, log 10. -/
  phase : Phase
  /-- What the last transition returned, log 12. -/
  returned : Returned
  /-- `STACK_DEPTH`: how many return addresses `STACK` holds, `none` for unbounded (00_scope.md R7), log 2. -/
  stackDepth : Option Nat
  deriving DecidableEq, Repr

end Sys2Proof.Machine

namespace Sys2Proof.Machine

/-- The whole machine. The fields above `env` are the CORE's state, exactly the table of 10_state.md. -/
structure State where
  /-- `V[0]` to `V[15]` (R10). -/
  v : Vector Byte 16
  /-- The program counter (R13, R14). -/
  pc : Word
  /-- The address register `I` (R16). -/
  i : Word
  /-- The delay timer (R17). -/
  dt : Byte
  /-- The sound timer (R18). -/
  st : Byte
  /-- `STACK`, the most recently pushed return address first (R19, R20). -/
  stack : List Word
  /-- `FB` (R21). -/
  fb : FrameBuffer
  /-- `LATCH` (R22). -/
  latch : Latch
  /-- `TONE`, true for on (R23). -/
  tone : Bool
  /-- `FAULT` (R24). -/
  fault : Option FaultRecord
  /-- `MEM` (R25). -/
  mem : Memory
  /-- The host's side of the interface (R29). -/
  env : Env
  deriving DecidableEq, Repr

/-- The reasons for which the machine stops with a fault: none. Raising UnknownInstruction, StackUnderflow or
StackOverflow is a NEXT state in which `FAULT` holds the record (60_exceptions.md R154), since `tick`, `key_down`
and `reset` still act on that state (R154, R164, R166). Log 6. -/
inductive Fault where
  deriving DecidableEq, Repr

/-- The reasons for which the model refuses a transition. -/
inductive Refusal where
  /-- An instruction without a meaning, rejected by name. Raised by no arm of `exec`. Safe. -/
  | notModelled (mnemonic : String)
  /-- Raised by the host action `keyDown code` with `code` above 15: "a model refuses it" (60_exceptions.md R167). Safe. -/
  | keyCodeOutsideInterface (code : Nat)
  /-- Raised by the host action `loadProgram` with more than 3584 bytes: "a model refuses them" (60_exceptions.md R170). Safe. -/
  | programTooLong (length : Nat)
  /-- Raised by the host action `loadProgram` after the boot sequence: "a model refuses them" (60_exceptions.md R170). Safe. -/
  | loadAfterBoot
  deriving DecidableEq, Repr

/-- The host's side right after reset when nothing came before it, log 13. -/
def Env.reset : Env where
  ports := ⟨0, 0⟩
  draws := 0
  agenda := []
  phase := .booting
  returned := .nothing
  stackDepth := Config.defaultStackDepth

/-- The machine right after reset (10_state.md R28, 70_reset_and_hazards.md R180). No memory cell differs from its
reset contents, so memory lists nothing. -/
def State.reset : State where
  v := Vector.replicate 16 0
  pc := 0x0200
  i := 0
  dt := 0
  st := 0
  stack := []
  fb := 0
  latch := .notWaiting
  tone := false
  fault := none
  mem := []
  env := Env.reset

end Sys2Proof.Machine
end

