-- ==== Sys2Proof/Machine/Memory.lean ====
section
/-! DEFINITION. The memory array `MEM` (10_state.md R25 to R27, 20_memory.md R40, R41, R49): reading and writing
one byte, every address reduced modulo 4096, over a list in one canonical form. -/

namespace Sys2Proof.Machine

/-- What a cell holds after reset, and so what an unlisted address reads as: `GLYPHS` at 0..79, 0 elsewhere
(10_state.md R28). -/
def Memory.initial (a : Nat) : Byte := Config.glyphs.getD a 0

/-- The byte listed at address `a`, if one is. -/
def Memory.lookup : Memory → Nat → Option Byte
  | [], _ => none
  | (a', b) :: rest, a => if a = a' then some b else Memory.lookup rest a

/-- `MemRead(a, 1) = MEM[a mod 4096]` (20_memory.md R41). -/
def Memory.read (m : Memory) (a : Nat) : Byte := (m.lookup (a % 4096)).getD (Memory.initial (a % 4096))

/-- The list without any entry for address `a`. -/
def Memory.erase (m : Memory) (a : Nat) : Memory := m.filter fun c => decide (c.1 ≠ a)

/-- The list with the cell `(a, b)` before the first higher address. -/
def Memory.insert : Memory → Nat → Byte → Memory
  | [], a, b => [(a, b)]
  | (a', b') :: rest, a, b =>
    if a < a' then (a, b) :: (a', b') :: rest else (a', b') :: Memory.insert rest a b

/-- Put byte `b` at address `a`, keeping the canonical form: a cell that holds its reset contents is not listed. -/
def Memory.put (m : Memory) (a : Nat) (b : Byte) : Memory :=
  if b = Memory.initial a then m.erase a else (m.erase a).insert a b

/-- `MemWrite(a, 1, b)` writes `MEM[a mod 4096]` (20_memory.md R41). -/
def Memory.write (m : Memory) (a : Nat) (b : Byte) : Memory := m.put (a % 4096) b

/-- Write bytes from address `a` upward, offset 0 first (20_memory.md R55). -/
def Memory.writeBytes (m : Memory) (a : Nat) : List Byte → Memory
  | [] => m
  | b :: bs => Memory.writeBytes (m.write a b) (a + 1) bs

/-- Every listed address lies at or above `lo` and below 4096, addresses rise strictly, and no cell is listed
with its reset contents. -/
def Memory.wfFrom : Nat → Memory → Bool
  | _, [] => true
  | lo, (a, b) :: rest => decide (lo ≤ a ∧ a < 4096 ∧ b ≠ Memory.initial a) && Memory.wfFrom (a + 1) rest

/-- The canonical form: equal memories are equal lists. -/
def Memory.wf (m : Memory) : Bool := Memory.wfFrom 0 m

end Sys2Proof.Machine
end

