-- ==== Sys2Proof/Machine/Ops.lean ====
section
/-! DEFINITION. The named operations over registers, memory, stack and framebuffer, fetching, and RAISING A FAULT
as one shared operation (60_exceptions.md R154). There is no return from a fault (R157). -/

namespace Sys2Proof.Machine

/-! ## Registers (10_state.md R10, R12) -/

/-- A read of `V[r]`. -/
def State.reg (s : State) (r : Reg) : Byte := s.v[r.val]

/-- `V[r] <- b`. No register is hardwired (R10). -/
def State.setReg (s : State) (r : Reg) (b : Byte) : State := { s with v := s.v.set r.val b }

/-- `I <- a`. -/
def State.setI (s : State) (a : Word) : State := { s with i := a }

/-- `DT <- b`. -/
def State.setDt (s : State) (b : Byte) : State := { s with dt := b }

/-- `ST <- b`. -/
def State.setSt (s : State) (b : Byte) : State := { s with st := b }

/-- `TONE <- b`. -/
def State.setTone (s : State) (b : Bool) : State := { s with tone := b }

/-- `LATCH <- l`. -/
def State.setLatch (s : State) (l : Latch) : State := { s with latch := l }

/-- `FB <- fb`. -/
def State.setFb (s : State) (fb : FrameBuffer) : State := { s with fb := fb }

/-- `MEM <- m`. -/
def State.setMem (s : State) (m : Memory) : State := { s with mem := m }

/-- `STACK <- l`, the most recently pushed entry first. -/
def State.setStack (s : State) (l : List Word) : State := { s with stack := l }

/-- Replace the host's side of the interface. -/
def State.setEnv (s : State) (e : Env) : State := { s with env := e }

/-! ## The program counter (40_step_and_flow.md R82) -/

/-- `pc <- a`. -/
def State.setPc (s : State) (a : Word) : State := { s with pc := a }

/-- `npc = (pc + 2) mod 65536`, where `pc` is the fetch address. -/
def State.npc (s : State) : Word := s.pc + 2

/-- `pc <- npc`, the end of every instruction whose rule does not assign `pc`. -/
def State.advance (s : State) : State := s.setPc s.npc

/-- `pc <- (npc + 2) mod 65536` when the condition holds, else `pc <- npc` (40_step_and_flow.md R86). -/
def State.skipIf (s : State) (c : Bool) : State := s.setPc (if c then s.npc + 2 else s.npc)

/-! ## Memory through the address register (42_index_memory.md R126) -/

/-- `EA(k) = (I + k) mod 4096`. -/
def State.ea (s : State) (k : Nat) : Nat := (s.i.toNat + k) % 4096

/-- `MemRead(I + k, 1)`. -/
def State.readAtI (s : State) (k : Nat) : Byte := s.mem.read (s.i.toNat + k)

/-- `MemWrite(I + k, 1, bytes[k])` for every `k`, in ascending order (20_memory.md R42, R55). `I` is unchanged. -/
def State.storeAtI (s : State) (bytes : List Byte) : State := s.setMem (s.mem.writeBytes s.i.toNat bytes)

/-- `for k = 0 to n - 1: V[k] <- MemRead(I + k, 1)` (42_index_memory.md R125). `I` is unchanged. -/
def State.loadAtI (s : State) (n : Nat) : State :=
  { s with v := (List.range n).foldl (fun v k => v.setIfInBounds k (s.readAtI k)) s.v }

/-! ## The call stack (10_state.md R19, R20) -/

/-- `len(STACK) = STACK_DEPTH`. A stack longer than the depth, which no run reaches, counts as full. -/
def State.stackFull (s : State) : Bool :=
  match s.env.stackDepth with
  | none => false
  | some d => decide (d ≤ s.stack.length)

/-! ## Faults (60_exceptions.md R154) -/

/-- Raise a fault: `FAULT` is set to the record and nothing else changes, so `pc` keeps the address of the
faulting word. -/
def State.raise (s : State) (r : FaultRecord) : State := { s with fault := some r }

/-- The numeric code of a fault (60_exceptions.md R154's table, decision D26), log 26. -/
def FaultRecord.code : FaultRecord → Nat
  | .unknownInstruction _ _ => 1
  | .stackUnderflow _ => 2
  | .stackOverflow _ => 3

/-! ## Fetch (20_memory.md R43, R44) -/

/-- The word at `pc`: the high byte from `MEM[pc mod 4096]`, the low byte from `MEM[(pc + 1) mod 4096]`. -/
def State.fetchWord (s : State) : Word := composeWord (s.mem.read s.pc.toNat) (s.mem.read (s.pc.toNat + 1))

/-- Store a word where the next fetch reads it. -/
def State.placeWord (s : State) (w : Word) : State :=
  s.setMem (s.mem.writeBytes s.pc.toNat [highByte w, lowByte w])

/-! ## The framebuffer (43_display.md R130, R132) -/

/-- The index of the cell at column `px`, row `py`: row-major, 64 columns (10_state.md R21). -/
def pixelIndex (px py : Nat) : Nat := py * 64 + px

/-- Whether the cell at column `px`, row `py` is 1. -/
def pixel (fb : FrameBuffer) (px py : Nat) : Bool := fb.getLsbD (pixelIndex px py)

/-- A framebuffer being drawn on, and whether any toggle so far reported an erasure. -/
structure Canvas where
  fb : FrameBuffer
  erased : Bool
  deriving DecidableEq, Repr

/-- `toggle(xc, yc)`: both coordinates wrap, the cell is inverted, and the erasure is noted iff it was 1 (R132). -/
def Canvas.toggle (c : Canvas) (xc yc : Nat) : Canvas :=
  let idx := pixelIndex (xc % 64) (yc % 32)
  { fb := c.fb ^^^ BitVec.twoPow 2048 idx, erased := c.erased || c.fb.getLsbD idx }

/-- One sprite row: bit `7 - col` of `b` toggles column `xc + col` (R131). -/
def Canvas.drawRow (c : Canvas) (xc yc : Nat) (b : Byte) : Canvas :=
  (List.range 8).foldl (fun c col => if b.getLsbD (7 - col) then c.toggle (xc + col) yc else c) c

/-- The rows of a sprite, top row first (R131). -/
def Canvas.drawRows (c : Canvas) (xc yc : Nat) : List Byte → Canvas
  | [] => c
  | b :: bs => Canvas.drawRows (c.drawRow xc yc b) xc (yc + 1) bs

end Sys2Proof.Machine
end

