-- ==== Sys2Proof/Machine/Operands.lean ====
section
/-! DEFINITION. The operand forms of 30_encoding.md R63: registers V[x] and V[y], the implicit V[0], the implicit
ranges V[0..x], the implicit I, DT and ST, and the immediates kk, n and nnn, all unsigned and none scaled. -/

namespace Sys2Proof.Machine

/-- `zext_16` of a byte. -/
def zext16 (b : Byte) : Word := b.setWidth 16

/-- The register operands `V[x]` and `V[y]`. -/
@[simp] abbrev regOperand (s : State) (r : Reg) : Byte := s.reg r

/-- The implicit operand `V[0]` of JP V0,nnn: always register 0 (40_step_and_flow.md R90). -/
@[simp] abbrev v0Operand (s : State) : Byte := s.reg 0

/-- The implicit range `V[0]` to `V[x]`, x inclusive (42_index_memory.md R124). -/
def regRange (s : State) (x : Reg) : List Byte := s.v.toList.take (x.val + 1)

/-- The n sprite bytes at `I + 0 .. I + n - 1` (43_display.md R131); none when n = 0. -/
def spriteOperand (s : State) (n : Nat) : List Byte := (List.range n).map s.readAtI

/-- The random byte this step sampled (60_exceptions.md R175). -/
@[simp] abbrev rndOperand (s : State) : Byte := s.env.ports.rnd

/-- `key_is_down(v) = (v <= 15) and (keys[v] = 1)`: the whole byte is compared (44_keys_timers.md R140). -/
def keyIsDown (s : State) (v : Byte) : Bool := decide (v.toNat ≤ 15) && s.env.ports.keys.getLsbD v.toNat

/-- The hundreds, tens and ones of a byte, most significant digit first (42_index_memory.md R123). -/
def decimalDigits (v : Byte) : List Byte :=
  [BitVec.ofNat 8 (v.toNat / 100), BitVec.ofNat 8 (v.toNat / 10 % 10), BitVec.ofNat 8 (v.toNat % 10)]

end Sys2Proof.Machine
end

