-- ==== Sys2Proof/Machine/Flags.lean ====
section
/-! DEFINITION. The flag computations of the six instructions that write VF as a flag (10_state.md R15), the exact
results beside them (41_alu.md R100), and the order of the two writes (R101). -/

namespace Sys2Proof.Machine

/-- A flag as it stands in VF: exactly 0 or 1 (10_state.md R15). -/
def flagByte (c : Bool) : Byte := if c then 1 else 0

/-- The exact sum, 0..510 (41_alu.md R108). -/
abbrev exactSum (a b : Byte) : Nat := a.toNat + b.toNat

/-- Carry out: `sum > 255` (41_alu.md R108). -/
def carryFlag (a b : Byte) : Bool := decide (255 < exactSum a b)

/-- `sum mod 256` (41_alu.md R103, R108). -/
def sumByte (a b : Byte) : Byte := BitVec.ofNat 8 (exactSum a b)

/-- No borrow, strictly: `a > b`; equal operands give false (41_alu.md R109, R111). -/
def greaterFlag (a b : Byte) : Bool := decide (b.toNat < a.toNat)

/-- `(a - b) mod 256` of the exact difference in the integers (41_alu.md R100, R109). -/
def differenceByte (a b : Byte) : Byte := BitVec.ofInt 8 ((a.toNat : Int) - (b.toNat : Int))

/-- The bit a right shift moves out: `a[0]` (41_alu.md R110). -/
def shiftRightFlag (a : Byte) : Bool := a.getLsbD 0

/-- `a >> 1`, logical (41_alu.md R110). -/
def shiftRightByte (a : Byte) : Byte := a >>> 1

/-- The bit a left shift moves out: `a[7]` (41_alu.md R112). -/
def shiftLeftFlag (a : Byte) : Bool := a.getLsbD 7

/-- `(a << 1) mod 256` (41_alu.md R112). -/
def shiftLeftByte (a : Byte) : Byte := a <<< 1

/-- The flag is written to V[15] first and the result to V[x] second, so for x = 15 the result stays
(41_alu.md R101). -/
def State.writeFlagThenResult (s : State) (flag : Bool) (x : Reg) (result : Byte) : State :=
  (s.setReg flagReg (flagByte flag)).setReg x result

end Sys2Proof.Machine
end

