-- ==== Sys2Proof/Machine/Alu.lean ====
section
/-! DEFINITION. The register, arithmetic, logic, shift and random instructions of 41_alu.md. Operands are read
before anything is written (R101); every one ends with `pc <- npc`. -/

namespace Sys2Proof.Machine

/-- LD Vx,kk (R102). -/
def execLdImm (x : Reg) (kk : Byte) (s : State) : Host.Outcome State Fault Refusal :=
  .next (s.setReg x kk).advance

/-- ADD Vx,kk (R103): no flag. -/
def execAddImm (x : Reg) (kk : Byte) (s : State) : Host.Outcome State Fault Refusal :=
  .next (s.setReg x (sumByte (regOperand s x) kk)).advance

/-- LD Vx,Vy (R104). -/
def execLdReg (x y : Reg) (s : State) : Host.Outcome State Fault Refusal :=
  .next (s.setReg x (regOperand s y)).advance

/-- OR Vx,Vy (R105): no flag. -/
def execOrReg (x y : Reg) (s : State) : Host.Outcome State Fault Refusal :=
  .next (s.setReg x (regOperand s x ||| regOperand s y)).advance

/-- AND Vx,Vy (R106): no flag. -/
def execAndReg (x y : Reg) (s : State) : Host.Outcome State Fault Refusal :=
  .next (s.setReg x (regOperand s x &&& regOperand s y)).advance

/-- XOR Vx,Vy (R107): no flag. -/
def execXorReg (x y : Reg) (s : State) : Host.Outcome State Fault Refusal :=
  .next (s.setReg x (regOperand s x ^^^ regOperand s y)).advance

/-- ADD Vx,Vy (R108). -/
def execAddReg (x y : Reg) (s : State) : Host.Outcome State Fault Refusal :=
  .next (s.writeFlagThenResult (carryFlag (regOperand s x) (regOperand s y)) x
    (sumByte (regOperand s x) (regOperand s y))).advance

/-- SUB Vx,Vy (R109). -/
def execSubReg (x y : Reg) (s : State) : Host.Outcome State Fault Refusal :=
  .next (s.writeFlagThenResult (greaterFlag (regOperand s x) (regOperand s y)) x
    (differenceByte (regOperand s x) (regOperand s y))).advance

/-- SHR Vx (R110): the y field selects nothing. -/
def execShr (x _y : Reg) (s : State) : Host.Outcome State Fault Refusal :=
  .next (s.writeFlagThenResult (shiftRightFlag (regOperand s x)) x (shiftRightByte (regOperand s x))).advance

/-- SUBN Vx,Vy (R111). -/
def execSubnReg (x y : Reg) (s : State) : Host.Outcome State Fault Refusal :=
  .next (s.writeFlagThenResult (greaterFlag (regOperand s y) (regOperand s x)) x
    (differenceByte (regOperand s y) (regOperand s x))).advance

/-- SHL Vx (R112): the y field selects nothing. -/
def execShl (x _y : Reg) (s : State) : Host.Outcome State Fault Refusal :=
  .next (s.writeFlagThenResult (shiftLeftFlag (regOperand s x)) x (shiftLeftByte (regOperand s x))).advance

/-- RND Vx,kk (R113): the random byte this step sampled, masked. -/
def execRnd (x : Reg) (kk : Byte) (s : State) : Host.Outcome State Fault Refusal :=
  .next (s.setReg x (rndOperand s &&& kk)).advance

end Sys2Proof.Machine
end

