-- ==== Sys2Proof/Machine/Display.lean ====
section
/-! DEFINITION. The framebuffer instructions of 43_display.md. Both end with `pc <- npc`. -/

namespace Sys2Proof.Machine

/-- CLS (R130): all 2048 cells become 0. -/
def execCls (s : State) : Host.Outcome State Fault Refusal :=
  .next (s.setFb 0).advance

/-- DRW Vx,Vy,n (R131): the coordinates are read before V[15] is written; the flag tells whether any toggle of the
whole sprite was an erasure, and it is always written. -/
def execDrw (x y : Reg) (n : Nat) (s : State) : Host.Outcome State Fault Refusal :=
  let drawn := Canvas.drawRows ⟨s.fb, false⟩ (regOperand s x).toNat (regOperand s y).toNat (spriteOperand s n)
  .next ((s.setFb drawn.fb).setReg flagReg (flagByte drawn.erased)).advance

end Sys2Proof.Machine
end

