-- ==== Sys2Proof/Machine/Flow.lean ====
section
/-! DEFINITION. The control-transfer instructions of 40_step_and_flow.md. -/

namespace Sys2Proof.Machine

/-- RET (R83): the popped address is used as it is; an empty stack raises StackUnderflow (60_exceptions.md R151). -/
def execRet (s : State) : Host.Outcome State Fault Refusal :=
  match s.stack with
  | [] => .next (s.raise (.stackUnderflow s.pc))
  | a :: rest => .next ((s.setStack rest).setPc a)

/-- JP nnn (R84). -/
def execJp (nnn : Word) (s : State) : Host.Outcome State Fault Refusal :=
  .next (s.setPc nnn)

/-- CALL nnn (R85): pushes npc; a full stack raises StackOverflow (60_exceptions.md R152). -/
def execCall (nnn : Word) (s : State) : Host.Outcome State Fault Refusal :=
  if s.stackFull then .next (s.raise (.stackOverflow s.pc))
  else .next ((s.setStack (s.npc :: s.stack)).setPc nnn)

/-- SE Vx,kk (R86). -/
def execSeImm (x : Reg) (kk : Byte) (s : State) : Host.Outcome State Fault Refusal :=
  .next (s.skipIf (decide (regOperand s x = kk)))

/-- SNE Vx,kk (R87). -/
def execSneImm (x : Reg) (kk : Byte) (s : State) : Host.Outcome State Fault Refusal :=
  .next (s.skipIf (decide (regOperand s x ≠ kk)))

/-- SE Vx,Vy (R88). -/
def execSeReg (x y : Reg) (s : State) : Host.Outcome State Fault Refusal :=
  .next (s.skipIf (decide (regOperand s x = regOperand s y)))

/-- SNE Vx,Vy (R89). -/
def execSneReg (x y : Reg) (s : State) : Host.Outcome State Fault Refusal :=
  .next (s.skipIf (decide (regOperand s x ≠ regOperand s y)))

/-- JP V0,nnn (R90): pc holds the unreduced sum (log 14). -/
def execJpV0 (nnn : Word) (s : State) : Host.Outcome State Fault Refusal :=
  .next (s.setPc (nnn + zext16 (v0Operand s)))

end Sys2Proof.Machine
end

