-- ==== Sys2Proof/Machine/IndexMemory.lean ====
section
/-! DEFINITION. The address-register, load and store instructions of 42_index_memory.md. Every one ends with
`pc <- npc`, writes no flag and faults on no address. -/

namespace Sys2Proof.Machine

/-- LD I,nnn (R120). -/
def execLdI (nnn : Word) (s : State) : Host.Outcome State Fault Refusal :=
  .next (s.setI nnn).advance

/-- ADD I,Vx (R121): modulo 4096, no flag (log 15). -/
def execAddI (x : Reg) (s : State) : Host.Outcome State Fault Refusal :=
  .next (s.setI (BitVec.ofNat 16 ((s.i.toNat + (regOperand s x).toNat) % 4096))).advance

/-- LD F,Vx (R122): the whole byte is multiplied. -/
def execLdF (x : Reg) (s : State) : Host.Outcome State Fault Refusal :=
  .next (s.setI (zext16 (regOperand s x) * 5)).advance

/-- LD B,Vx (R123). -/
def execLdB (x : Reg) (s : State) : Host.Outcome State Fault Refusal :=
  .next (s.storeAtI (decimalDigits (regOperand s x))).advance

/-- LD [I],Vx (R124). -/
def execLdMemVx (x : Reg) (s : State) : Host.Outcome State Fault Refusal :=
  .next (s.storeAtI (regRange s x)).advance

/-- LD Vx,[I] (R125). -/
def execLdVxMem (x : Reg) (s : State) : Host.Outcome State Fault Refusal :=
  .next (s.loadAtI (x.val + 1)).advance

end Sys2Proof.Machine
end

