-- ==== Sys2Proof/Machine/KeysTimers.lean ====
section
/-! DEFINITION. The key and timer instructions of 44_keys_timers.md. None writes a flag. -/

namespace Sys2Proof.Machine

/-- SKP Vx (R141): the level of the key at this step. -/
def execSkp (x : Reg) (s : State) : Host.Outcome State Fault Refusal :=
  .next (s.skipIf (keyIsDown s (regOperand s x)))

/-- SKNP Vx (R142). -/
def execSknp (x : Reg) (s : State) : Host.Outcome State Fault Refusal :=
  .next (s.skipIf (!keyIsDown s (regOperand s x)))

/-- LD Vx,DT (R144). -/
def execLdVxDt (x : Reg) (s : State) : Host.Outcome State Fault Refusal :=
  .next (s.setReg x s.dt).advance

/-- LD Vx,K (R143): the latch waits and pc is advanced past the instruction; V[x] is written by `key_down`. -/
def execLdVxK (x : Reg) (s : State) : Host.Outcome State Fault Refusal :=
  .next (s.setLatch (.waiting x)).advance

/-- LD DT,Vx (R145). -/
def execLdDtVx (x : Reg) (s : State) : Host.Outcome State Fault Refusal :=
  .next (s.setDt (regOperand s x)).advance

/-- LD ST,Vx (R146): TONE is not recomputed before the next tick. -/
def execLdStVx (x : Reg) (s : State) : Host.Outcome State Fault Refusal :=
  .next (s.setSt (regOperand s x)).advance

end Sys2Proof.Machine
end

