-- ==== Sys2Proof/Machine/HostInterface.lean ====
section
/-! DEFINITION. The transitions besides `step`: `tick`, `key_down`, `load_program`, `reset` and `snapshot`
(60_exceptions.md R163, R166, R170, R172, R176, 70_reset_and_hazards.md R180, R183), and the sampling of a step's
inputs (40_step_and_flow.md R80). -/

namespace Sys2Proof.Machine

/-! ## The host's side -/

/-- Record what a transition returns to the host. -/
def State.returning (s : State) (r : Returned) : State := s.setEnv { s.env with returned := r }

/-- The rest of the agenda, after its first action was taken. -/
def State.withAgenda (s : State) (rest : List HostAction) : State := s.setEnv { s.env with agenda := rest }

/-- A step, tick or key event ends the boot sequence (70_reset_and_hazards.md R182), log 10. -/
def State.running (s : State) : State := s.setEnv { s.env with phase := .running }

/-- Sample the inputs of a step: those the host gives, or free ones, a fresh draw each time (log 7). -/
def State.sample (s : State) : Option Ports → State
  | some p => s.setEnv { s.env with ports := p }
  | none => s.setEnv { s.env with
      ports := ⟨Config.freeKeys s.env.draws, Config.freeRnd s.env.draws⟩, draws := s.env.draws + 1 }

/-- What an executed instruction returns: Faulted if it raised a fault, else Done (40_step_and_flow.md R80). -/
def State.stepResult (s : State) : Returned :=
  match s.fault with
  | some r => .faulted r
  | none => .done

/-! ## The transitions -/

/-- A timer decremented, floor 0 (60_exceptions.md R163). -/
def countdown (b : Byte) : Byte := if b = 0 then 0 else b - 1

/-- `tick()`: TONE is recomputed from ST after the decrement; LATCH and FAULT are not consulted
(60_exceptions.md R163, R164). -/
def State.tick (s : State) : State :=
  ((s.setDt (countdown s.dt)).setSt (countdown s.st)).setTone (decide (countdown s.st ≠ 0))

/-- `key_down(code)` for a code in 0..15: resolves a waiting latch, and is not remembered otherwise
(60_exceptions.md R166, R167). -/
def State.keyDown (s : State) (code : Nat) : State :=
  match s.latch with
  | .waiting x => (s.setReg x (BitVec.ofNat 8 code)).setLatch .notWaiting
  | .notWaiting => s

/-- The host action `key_down(code)`; a code above 15 is outside the interface (60_exceptions.md R167, log 11). -/
def keyDownAction (code : Nat) (s : State) : Host.Outcome State Fault Refusal :=
  if 15 < code then .refused (.keyCodeOutsideInterface code) else .next ((s.keyDown code).returning .nothing)

/-- `load_program(bytes)`: the image is copied from 0x200 upward; admitted only in the boot phase and with at most
3584 bytes (60_exceptions.md R170, 70_reset_and_hazards.md R183, log 10). -/
def loadProgramAction (bytes : List Byte) (s : State) : Host.Outcome State Fault Refusal :=
  if 3584 < bytes.length then .refused (.programTooLong bytes.length)
  else match s.env.phase with
    | .running => .refused .loadAfterBoot
    | .booting => .next (((s.setMem (s.mem.writeBytes 0x200 bytes)).running).returning .nothing)

/-- `reset()`: all CORE state takes its reset value (70_reset_and_hazards.md R180). The host keeps its agenda, the
parameter STACK_DEPTH and the count of free draws, so that later draws stay fresh (log 30). -/
def State.resetAction (s : State) : State :=
  State.reset.setEnv { Env.reset with
    draws := s.env.draws, agenda := s.env.agenda, stackDepth := s.env.stackDepth }

/-- `snapshot()`: the 2048 framebuffer bits, side-effect free (60_exceptions.md R172). -/
def State.snapshotAction (s : State) : State := s.returning (.pixels s.fb)

end Sys2Proof.Machine
end

