-- ==== Sys2Proof/Machine/Transition.lean ====
section
/-! DEFINITION. The step algorithm of 40_step_and_flow.md R80, and the choice of the next transition: the first
action of the host's agenda, or a step with free inputs when the agenda is empty (log 8). -/

namespace Sys2Proof.Machine

/-- The end of an executed instruction: what the step returns to the host is recorded (40_step_and_flow.md R80). -/
def reportStep : Host.Outcome State Fault Refusal → Host.Outcome State Fault Refusal
  | .next t => .next (t.returning t.stepResult)
  | .fault r => .fault r
  | .refused r => .refused r

/-- R80 items 3 to 8: fetch, decode, execute. The inputs are sampled for the instruction that executes. -/
def executeOne (p : Option Ports) (s : State) : Host.Outcome State Fault Refusal :=
  match decodeWord s.fetchWord with
  | .error _ => reportStep (.next (s.raise (.unknownInstruction s.fetchWord s.pc)))
  | .ok i => reportStep (exec i (s.sample p))

/-- `step(keys, rnd)` (R80): a recorded fault, then the latch, then an instruction. -/
def stepTransition (p : Option Ports) (s : State) : Host.Outcome State Fault Refusal :=
  match s.fault with
  | some r => .next (s.returning (.faulted r))
  | none =>
    match s.latch with
    | .waiting _ => .next (s.returning .idle)
    | .notWaiting => executeOne p s

/-- The next transition of the machine, atomic (20_memory.md R50). -/
def transition (s : State) : Host.Outcome State Fault Refusal :=
  match s.env.agenda with
  | [] => stepTransition none s.running
  | .step p :: rest => stepTransition (some p) (s.withAgenda rest).running
  | .tick :: rest => .next (((s.withAgenda rest).running.tick).returning (.tone s.tick.tone))
  | .keyDown code :: rest => keyDownAction code (s.withAgenda rest).running
  | .snapshot :: rest => .next (s.withAgenda rest).snapshotAction
  | .reset :: rest => .next (s.withAgenda rest).resetAction
  | .loadProgram bytes :: rest => loadProgramAction bytes (s.withAgenda rest)

/-- Whether a host action is a step. -/
def HostAction.isStep : HostAction → Bool
  | .step _ => true
  | .tick => false
  | .keyDown _ => false
  | .snapshot => false
  | .reset => false
  | .loadProgram _ => false

/-- Make the very next transition a step that fetches: no recorded fault, no key wait, no other host action first. -/
def State.readyToFetch (s : State) : State :=
  { s.withAgenda (s.env.agenda.dropWhile fun a => !a.isStep) with fault := none, latch := .notWaiting }

end Sys2Proof.Machine
end

