-- ==== Sys2Proof/Safety.lean ====
section
/-! DEFINITION. What counts as a safe run, the invariant of the machine (10_state.md R31), what an instruction may
write (10_state.md R30), and the other terms the statements use. -/

namespace Sys2Proof.Safety

open Sys2Proof.Machine

/-! ## Safe and ended states -/

/-- No fault is recorded. -/
def NoFault (s : State) : Prop := s.fault = none

/-- A run has ended normally: no fault, no key wait, and the word at pc is a jump to itself (70_reset_and_hazards.md
R184, a convention of the spec, log 25). -/
structure EndedNormally (s : State) : Prop where
  noFault : s.fault = none
  notWaiting : s.latch = .notWaiting
  below : s.pc.toNat < 4096
  jumpsToItself : decodeWord s.fetchWord = .ok (.jp s.pc)

/-! ## The invariant -/

/-- What holds in every reachable state beyond the widths (10_state.md R31 items 3 and 4), and the canonical form
of memory. -/
structure Inv (s : State) : Prop where
  /-- `I < 4096` (R16). -/
  index : s.i.toNat < 4096
  /-- `len(STACK) <= STACK_DEPTH` (R20). -/
  stack : ∀ d, s.env.stackDepth = some d → s.stack.length ≤ d
  /-- Memory is in canonical form. -/
  memory : s.mem.wf = true

/-! ## The next transition -/

/-- If the next transition is a step: the inputs the host gives it (`none` for free ones) and the rest of the agenda. -/
def stepAhead (s : State) : Option (Option Ports × List HostAction) :=
  match s.env.agenda with
  | [] => some (none, [])
  | .step p :: rest => some (some p, rest)
  | .tick :: _ => none
  | .keyDown _ :: _ => none
  | .snapshot :: _ => none
  | .reset :: _ => none
  | .loadProgram _ :: _ => none

/-- `t` is `s` but for the host's side: no state of the CORE differs. -/
def CoreUnchanged (s t : State) : Prop := t = { s with env := t.env }

/-! ## Frames -/

/-- What an instruction may write besides pc: registers, memory cells (addresses below 4096), and the other fields. -/
structure Writes where
  regs : List Reg := []
  stores : List Nat := []
  i : Bool := false
  dt : Bool := false
  st : Bool := false
  stack : Bool := false
  fb : Bool := false
  latch : Bool := false
  deriving DecidableEq, Repr

/-- Nothing but pc and what `w` names has changed from `s` to `t`; every byte of memory outside the stored
addresses reads as before. -/
structure Frame (w : Writes) (s t : State) : Prop where
  regs : ∀ q, q ∉ w.regs → t.reg q = s.reg q
  mem : ∀ a, a % 4096 ∉ w.stores → t.mem.read a = s.mem.read a
  i : w.i = false → t.i = s.i
  dt : w.dt = false → t.dt = s.dt
  st : w.st = false → t.st = s.st
  stack : w.stack = false → t.stack = s.stack
  fb : w.fb = false → t.fb = s.fb
  latch : w.latch = false → t.latch = s.latch
  tone : t.tone = s.tone
  fault : t.fault = s.fault
  env : t.env = s.env

/-- The addresses `EA(0)` to `EA(n - 1)` of a transfer through I (42_index_memory.md R126). -/
def storedAddresses (s : State) (n : Nat) : List Nat := (List.range n).map s.ea

/-! ## Classes of instructions, from the access matrix (10_state.md R30) -/

/-- The six instructions that write VF as a flag (10_state.md R15). -/
def writesFlag : Instr → Bool
  | .addReg _ _ => true
  | .subReg _ _ => true
  | .shr _ _ => true
  | .subnReg _ _ => true
  | .shl _ _ => true
  | .drw _ _ _ => true
  | .cls => false
  | .ret => false
  | .jp _ => false
  | .call _ => false
  | .seImm _ _ => false
  | .sneImm _ _ => false
  | .seReg _ _ => false
  | .ldImm _ _ => false
  | .addImm _ _ => false
  | .ldReg _ _ => false
  | .orReg _ _ => false
  | .andReg _ _ => false
  | .xorReg _ _ => false
  | .sneReg _ _ => false
  | .ldI _ => false
  | .jpV0 _ => false
  | .rnd _ _ => false
  | .skp _ => false
  | .sknp _ => false
  | .ldVxDt _ => false
  | .ldVxK _ => false
  | .ldDtVx _ => false
  | .ldStVx _ => false
  | .addI _ => false
  | .ldF _ => false
  | .ldB _ => false
  | .ldMemVx _ => false
  | .ldVxMem _ => false

/-- Whether register `q` is a destination of the instruction (the V rows of 10_state.md R30). LD Vx,K has none:
its register is written later, by `key_down`. -/
def isDestination (q : Reg) : Instr → Bool
  | .ldImm x _ => q == x
  | .addImm x _ => q == x
  | .ldReg x _ => q == x
  | .orReg x _ => q == x
  | .andReg x _ => q == x
  | .xorReg x _ => q == x
  | .addReg x _ => q == x
  | .subReg x _ => q == x
  | .shr x _ => q == x
  | .subnReg x _ => q == x
  | .shl x _ => q == x
  | .rnd x _ => q == x
  | .ldVxDt x => q == x
  | .ldVxMem x => decide (q ≤ x)
  | .cls => false
  | .ret => false
  | .jp _ => false
  | .call _ => false
  | .seImm _ _ => false
  | .sneImm _ _ => false
  | .seReg _ _ => false
  | .sneReg _ _ => false
  | .ldI _ => false
  | .jpV0 _ => false
  | .drw _ _ _ => false
  | .skp _ => false
  | .sknp _ => false
  | .ldVxK _ => false
  | .ldDtVx _ => false
  | .ldStVx _ => false
  | .addI _ => false
  | .ldF _ => false
  | .ldB _ => false
  | .ldMemVx _ => false

/-- The instructions whose rule assigns pc: RET, JP, CALL, JP V0 and the six skips (10_state.md R14,
40_step_and_flow.md R91). -/
def assignsPc : Instr → Bool
  | .ret => true
  | .jp _ => true
  | .call _ => true
  | .jpV0 _ => true
  | .seImm _ _ => true
  | .sneImm _ _ => true
  | .seReg _ _ => true
  | .sneReg _ _ => true
  | .skp _ => true
  | .sknp _ => true
  | .cls => false
  | .ldImm _ _ => false
  | .addImm _ _ => false
  | .ldReg _ _ => false
  | .orReg _ _ => false
  | .andReg _ _ => false
  | .xorReg _ _ => false
  | .addReg _ _ => false
  | .subReg _ _ => false
  | .shr _ _ => false
  | .subnReg _ _ => false
  | .shl _ _ => false
  | .ldI _ => false
  | .rnd _ _ => false
  | .drw _ _ _ => false
  | .ldVxDt _ => false
  | .ldVxK _ => false
  | .ldDtVx _ => false
  | .ldStVx _ => false
  | .addI _ => false
  | .ldF _ => false
  | .ldB _ => false
  | .ldMemVx _ => false
  | .ldVxMem _ => false

/-! ## Sprites (43_display.md R131) -/

/-- The sprite of DRW Vx,Vy,n has a 1 bit that falls on the cell at column `px`, row `py`: bit `7 - col` of the byte
at `I + row` falls on column `(V[x] + col) mod 64` of row `(V[y] + row) mod 32`. -/
def SpriteCovers (s : State) (x y : Reg) (n px py : Nat) : Prop :=
  ∃ row col, row < n ∧ col < 8 ∧ (s.mem.read (s.ea row)).getLsbD (7 - col) = true ∧
    ((s.reg x).toNat + col) % 64 = px ∧ ((s.reg y).toNat + row) % 32 = py

/-- The sprite of DRW Vx,Vy,n has a 1 bit on a cell that is 1: its drawing erases a cell. -/
def SpriteErases (s : State) (x y : Reg) (n : Nat) : Prop :=
  ∃ px py, px < 64 ∧ py < 32 ∧ pixel s.fb px py = true ∧ SpriteCovers s x y n px py

end Sys2Proof.Safety
end

