-- ==== Sys2Proof/Certificates/Slice0/Obligations.lean ====
section
/-! DEFINITION. The statements for the provers. Each docstring names the rule of spec/ it formalises, or says that it
rests on a decision of the spec or of the model. "Completes" means: exec answers a next state. -/

open Sys2Proof Sys2Proof.Machine Sys2Proof.Safety

/-! ## Encoding -/

/-- Every well-formed instruction, with every operand at every value, decodes from its own word. Rests on the bit
patterns of decision D2 (log 4). -/
def Obligations.DecodeOfEncodeIsIdentity : Prop :=
  ∀ i : Instr, i.wellFormed = true → decodeWord (encode i) = .ok i

/-- Every word the decoder accepts gives a well-formed instruction whose encoding is that word again: no bit of a legal
word is dropped, the ignored y field of SHR and SHL included. Rests on decisions D2 and D3 (log 4, log 5). -/
def Obligations.EncodeOfDecodeIsIdentity : Prop :=
  ∀ (w : Word) (i : Instr), decodeWord w = .ok i → i.wellFormed = true ∧ encode i = w

/-- The decoder accepts exactly the words that select a row of the opcode map by mask and match, and rejects every
other word as unknown (strict decode, decisions D2 and D3, log 4, log 5). -/
def Obligations.LegalWordsAreThoseOfTheOpcodeMap : Prop :=
  ∀ w : Word, ((∃ i, decodeWord w = .ok i) ↔ ∃ r ∈ opcodeTable, r.selectedBy w = true) ∧
    (decodeWord w = .error (.unknownWord w) ↔ ∀ r ∈ opcodeTable, r.selectedBy w = false)

/-- No word selects two rows of the opcode map. -/
def Obligations.NoWordSelectsTwoRows : Prop :=
  ∀ (w : Word) (r r' : Row), r ∈ opcodeTable → r' ∈ opcodeTable → r.selectedBy w = true → r'.selectedBy w = true →
    r = r'

/-- The words the source itself confirms decode as it says (sanity). -/
def Obligations.ConfirmedWordsDecode : Prop :=
  decodeWord 0x00E0 = .ok .cls ∧ decodeWord 0x600A = .ok (.ldImm 0 10) ∧ decodeWord 0x6105 = .ok (.ldImm 1 5) ∧
  decodeWord 0xA000 = .ok (.ldI 0) ∧ decodeWord 0xD015 = .ok (.drw 0 1 5) ∧
  decodeWord 0xFFFF = .error (.unknownWord 0xFFFF)

/-! ## Fetch and step -/

/-- R43: the byte at pc supplies bits 15:8 of the word, the byte at the next address bits 7:0. -/
def Obligations.FetchIsBigEndian : Prop :=
  ∀ s : State, s.fetchWord.extractLsb' 8 8 = s.mem.read s.pc.toNat ∧
    s.fetchWord.extractLsb' 0 8 = s.mem.read (s.pc.toNat + 1)

/-- When the next transition is a step of a CORE that neither holds a fault nor waits, and the word at pc decodes to `i`,
the step is exec of `i` at `u`, where `u` is `s` with the step's inputs sampled (the host's, or free ones of a fresh
draw) and the boot phase over; the step answers next, and only what it returned to the host is added. -/
def Obligations.StepRunsTheDecodedInstruction : Prop :=
  ∀ (s : State) (p : Option Ports) (rest : List HostAction) (i : Instr),
    stepAhead s = some (p, rest) → s.fault = none → s.latch = .notWaiting → decodeWord s.fetchWord = .ok i →
    ∃ u t, CoreUnchanged s u ∧ u.env.agenda = rest ∧ u.env.phase = .running ∧ u.env.returned = s.env.returned ∧
      u.env.stackDepth = s.env.stackDepth ∧
      (∀ q, p = some q → u.env.ports = q ∧ u.env.draws = s.env.draws) ∧
      (p = none → u.env.ports = ⟨Config.freeKeys s.env.draws, Config.freeRnd s.env.draws⟩ ∧
        u.env.draws = s.env.draws + 1) ∧
      exec i u = .next t ∧
      (t.fault = none → step s = .next { t with env := { t.env with returned := .done } }) ∧
      (∀ r, t.fault = some r → step s = .next { t with env := { t.env with returned := .faulted r } })

/-- R150: a word that matches no row makes the step raise UnknownInstruction with the word and the pc it was fetched
from, before any other state is changed. Which words match no row rests on decisions D2 and D3 (log 4, log 5), the
sticky FAULT register on D16 (log 6), the code 1 on D26 (log 26). -/
def Obligations.UnknownWordRaisesUnknownInstruction : Prop :=
  ∀ (s : State) (p : Option Ports) (rest : List HostAction),
    stepAhead s = some (p, rest) → s.fault = none → s.latch = .notWaiting →
    (∀ r ∈ opcodeTable, r.selectedBy s.fetchWord = false) →
    ∃ t, step s = .next t ∧ t = { s with fault := t.fault, env := t.env } ∧
      t.fault = some (.unknownInstruction s.fetchWord s.pc) ∧
      t.env.returned = .faulted (.unknownInstruction s.fetchWord s.pc) ∧ t.env.agenda = rest ∧
      FaultRecord.code (.unknownInstruction s.fetchWord s.pc) = 1

/-- A step of a faulted CORE returns the record and changes no state of the CORE (decision D16, log 6). -/
def Obligations.FaultedCoreStepsChangeNothing : Prop :=
  ∀ (s : State) (p : Option Ports) (rest : List HostAction) (r : FaultRecord),
    stepAhead s = some (p, rest) → s.fault = some r →
    ∃ t, step s = .next t ∧ CoreUnchanged s t ∧ t.env.returned = .faulted r ∧ t.env.agenda = rest

/-- A step of a waiting CORE returns Idle and changes no state of the CORE. -/
def Obligations.WaitingCoreStepsAreIdle : Prop :=
  ∀ (s : State) (p : Option Ports) (rest : List HostAction) (x : Reg),
    stepAhead s = some (p, rest) → s.fault = none → s.latch = .waiting x →
    ∃ t, step s = .next t ∧ CoreUnchanged s t ∧ t.env.returned = .idle ∧ t.env.agenda = rest

/-- A recorded fault keeps its value through every transition but `reset` (decision D16, log 6). -/
def Obligations.RecordedFaultStaysUntilReset : Prop :=
  ∀ (s t : State) (r : FaultRecord), s.fault = some r → step s = .next t →
    t.fault = some r ∨ ∃ rest, s.env.agenda = .reset :: rest

/-- Every instruction answers a next state in every state. For RET on an empty and CALL on a full stack this is the
model's choice: they raise a fault (decision D7, log 27), and raising a fault is the next state with FAULT set, after
which no instruction executes until reset (decision D16, log 6). -/
def Obligations.EveryInstructionCompletes : Prop :=
  ∀ (i : Instr) (s : State), ∃ t, exec i s = .next t

/-- The invariant holds at reset. -/
def Obligations.ResetMeetsTheInvariant : Prop := Inv State.reset

/-- Every transition keeps the invariant: I below 4096 (decision D10, log 15), the stack within STACK_DEPTH (decision
D6, log 2), memory in canonical form (log 24). -/
def Obligations.EveryStepKeepsTheInvariant : Prop :=
  ∀ s t : State, Inv s → step s = .next t → Inv t

/-! ## Control transfer -/

/-- R84: JP nnn. -/
def Obligations.JumpGoesToItsAddress : Prop :=
  ∀ (s : State) (nnn : Word), ∃ t, exec (.jp nnn) s = .next t ∧ t.pc = nnn ∧ Frame {} s t

/-- CALL nnn with room on the stack pushes the address of the next word and jumps. Where the stack counts as full is the
parameter STACK_DEPTH (decision D6, log 2). -/
def Obligations.CallPushesTheReturnAddress : Prop :=
  ∀ (s : State) (nnn : Word), (∀ d, s.env.stackDepth = some d → s.stack.length < d) →
    ∃ t, exec (.call nnn) s = .next t ∧ t.pc = nnn ∧ t.stack = (s.pc + 2) :: s.stack ∧ Frame { stack := true } s t

/-- CALL with a full stack raises StackOverflow, code 3, and changes nothing else (decisions D6, D7, log 27). -/
def Obligations.CallOnFullStackRaisesOverflow : Prop :=
  ∀ (s : State) (nnn : Word) (d : Nat), s.env.stackDepth = some d → s.stack.length = d →
    exec (.call nnn) s = .next { s with fault := some (.stackOverflow s.pc) } ∧
      FaultRecord.code (.stackOverflow s.pc) = 3

/-- RET pops the most recently pushed address and uses it as it is. -/
def Obligations.ReturnPopsTheNewestAddress : Prop :=
  ∀ (s : State) (a : Word) (rest : List Word), s.stack = a :: rest →
    ∃ t, exec .ret s = .next t ∧ t.pc = a ∧ t.stack = rest ∧ Frame { stack := true } s t

/-- RET with an empty stack raises StackUnderflow, code 2, and changes nothing else (decision D7, log 27). -/
def Obligations.ReturnOnEmptyStackRaisesUnderflow : Prop :=
  ∀ s : State, s.stack = [] →
    exec .ret s = .next { s with fault := some (.stackUnderflow s.pc) } ∧
      FaultRecord.code (.stackUnderflow s.pc) = 2

/-- After a CALL that raised no fault, a RET in any later state with the stack as the CALL left it comes back to the word
after the CALL, with the stack as before it. -/
def Obligations.ReturnComesBackAfterItsCall : Prop :=
  ∀ (s t u : State) (nnn : Word), exec (.call nnn) s = .next t → t.fault = none → u.stack = t.stack →
    ∃ w, exec .ret u = .next w ∧ w.pc = s.pc + 2 ∧ w.stack = s.stack

/-- R86 and R87: SE Vx,kk and SNE Vx,kk. -/
def Obligations.SkipsOnImmediates : Prop :=
  ∀ (s : State) (x : Reg) (kk : Byte),
    (∃ t, exec (.seImm x kk) s = .next t ∧ t.pc = (if s.reg x = kk then s.pc + 4 else s.pc + 2) ∧ Frame {} s t) ∧
    (∃ t, exec (.sneImm x kk) s = .next t ∧ t.pc = (if s.reg x = kk then s.pc + 2 else s.pc + 4) ∧ Frame {} s t)

/-- R88 and R89: SE Vx,Vy and SNE Vx,Vy. -/
def Obligations.SkipsOnRegisters : Prop :=
  ∀ (s : State) (x y : Reg),
    (∃ t, exec (.seReg x y) s = .next t ∧ t.pc = (if s.reg x = s.reg y then s.pc + 4 else s.pc + 2) ∧
      Frame {} s t) ∧
    (∃ t, exec (.sneReg x y) s = .next t ∧ t.pc = (if s.reg x = s.reg y then s.pc + 2 else s.pc + 4) ∧
      Frame {} s t)

/-- JP V0,nnn with a 12-bit nnn: pc holds the exact sum with V[0], at most 0x10FE, not reduced to 12 bits
(decision D9, log 14). -/
def Obligations.JumpWithOffsetAddsV0 : Prop :=
  ∀ (s : State) (nnn : Word), (Instr.jpV0 nnn).wellFormed = true →
    ∃ t, exec (.jpV0 nnn) s = .next t ∧ t.pc.toNat = nnn.toNat + (s.reg 0).toNat ∧ Frame {} s t

/-- Every instruction whose rule does not assign pc ends at the next word. -/
def Obligations.OtherInstructionsGoToTheNextWord : Prop :=
  ∀ (i : Instr) (s t : State), assignsPc i = false → exec i s = .next t → t.pc = s.pc + 2

/-! ## Registers and arithmetic -/

/-- R102 and R104: LD Vx,kk and LD Vx,Vy. -/
def Obligations.RegisterLoads : Prop :=
  ∀ (s : State) (x y : Reg) (kk : Byte),
    (∃ t, exec (.ldImm x kk) s = .next t ∧ t.reg x = kk ∧ t.pc = s.pc + 2 ∧ Frame { regs := [x] } s t) ∧
    (∃ t, exec (.ldReg x y) s = .next t ∧ t.reg x = s.reg y ∧ t.pc = s.pc + 2 ∧ Frame { regs := [x] } s t)

/-- R103: ADD Vx,kk wraps modulo 256 and writes no flag. -/
def Obligations.AddImmediateWrapsWithoutFlag : Prop :=
  ∀ (s : State) (x : Reg) (kk : Byte),
    ∃ t, exec (.addImm x kk) s = .next t ∧ (t.reg x).toNat = ((s.reg x).toNat + kk.toNat) % 256 ∧
      t.pc = s.pc + 2 ∧ Frame { regs := [x] } s t

/-- R105, R106 and R107: OR, AND and XOR write V[x] and no flag. -/
def Obligations.LogicWritesOnlyItsDestination : Prop :=
  ∀ (s : State) (x y : Reg),
    (∃ t, exec (.orReg x y) s = .next t ∧ t.reg x = s.reg x ||| s.reg y ∧ t.pc = s.pc + 2 ∧
      Frame { regs := [x] } s t) ∧
    (∃ t, exec (.andReg x y) s = .next t ∧ t.reg x = s.reg x &&& s.reg y ∧ t.pc = s.pc + 2 ∧
      Frame { regs := [x] } s t) ∧
    (∃ t, exec (.xorReg x y) s = .next t ∧ t.reg x = s.reg x ^^^ s.reg y ∧ t.pc = s.pc + 2 ∧
      Frame { regs := [x] } s t)

/-- R108: ADD Vx,Vy gives the sum modulo 256 and the carry in VF. That the result stays for x = 15, and the old V[15]
is the operand for y = 15, is decision D11 (log 16). -/
def Obligations.AddWritesSumAndCarry : Prop :=
  ∀ (s : State) (x y : Reg),
    ∃ t, exec (.addReg x y) s = .next t ∧
      (t.reg x).toNat = ((s.reg x).toNat + (s.reg y).toNat) % 256 ∧
      (x ≠ 15 → t.reg 15 = if (s.reg x).toNat + (s.reg y).toNat > 255 then 1 else 0) ∧
      t.pc = s.pc + 2 ∧ Frame { regs := [x, 15] } s t

/-- R109 and R111: SUB and SUBN give the difference modulo 256 and the strict comparison in VF. That the result stays
for x = 15, and the old V[15] is the operand for y = 15, is decision D11 (log 16). -/
def Obligations.SubtractionsWriteDifferenceAndComparison : Prop :=
  ∀ (s : State) (x y : Reg),
    (∃ t, exec (.subReg x y) s = .next t ∧
      ((t.reg x).toNat : Int) = ((s.reg x).toNat - (s.reg y).toNat : Int) % 256 ∧
      (x ≠ 15 → t.reg 15 = if (s.reg x).toNat > (s.reg y).toNat then 1 else 0) ∧
      t.pc = s.pc + 2 ∧ Frame { regs := [x, 15] } s t) ∧
    (∃ t, exec (.subnReg x y) s = .next t ∧
      ((t.reg x).toNat : Int) = ((s.reg y).toNat - (s.reg x).toNat : Int) % 256 ∧
      (x ≠ 15 → t.reg 15 = if (s.reg y).toNat > (s.reg x).toNat then 1 else 0) ∧
      t.pc = s.pc + 2 ∧ Frame { regs := [x, 15] } s t)

/-- R110 and R112: SHR and SHL shift V[x] by one place and put the bit shifted out, as 0 or 1, in VF; the y field
selects nothing. That the result stays for x = 15 is decision D11 (log 16). -/
def Obligations.ShiftsWriteResultAndShiftedBit : Prop :=
  ∀ (s : State) (x y : Reg),
    (∃ t, exec (.shr x y) s = .next t ∧ (t.reg x).toNat = (s.reg x).toNat / 2 ∧
      (x ≠ 15 → (t.reg 15).toNat = (s.reg x).toNat % 2) ∧ t.pc = s.pc + 2 ∧ Frame { regs := [x, 15] } s t) ∧
    (∃ t, exec (.shl x y) s = .next t ∧ (t.reg x).toNat = (s.reg x).toNat * 2 % 256 ∧
      (x ≠ 15 → (t.reg 15).toNat = (s.reg x).toNat / 128) ∧ t.pc = s.pc + 2 ∧ Frame { regs := [x, 15] } s t)

/-- RND Vx,kk: the random byte the step sampled, whatever it is, masked with kk (decision D13, log 7). -/
def Obligations.RandomIsMasked : Prop :=
  ∀ (s : State) (x : Reg) (kk : Byte),
    ∃ t, exec (.rnd x kk) s = .next t ∧ t.reg x = s.env.ports.rnd &&& kk ∧ t.pc = s.pc + 2 ∧
      Frame { regs := [x] } s t

/-- After each of the six flag-writing instructions VF is exactly 0 or 1, unless VF is the destination. -/
def Obligations.FlagIsZeroOrOne : Prop :=
  ∀ (i : Instr) (s t : State), writesFlag i = true → isDestination 15 i = false → exec i s = .next t →
    t.reg 15 = 0 ∨ t.reg 15 = 1

/-- No instruction writes a register that is not its destination, but for VF by the six flag-writing instructions. -/
def Obligations.RegistersChangeOnlyAsTheAccessMatrixSays : Prop :=
  ∀ (i : Instr) (s t : State) (q : Reg), exec i s = .next t → isDestination q i = false →
    (writesFlag i = false ∨ q ≠ 15) → t.reg q = s.reg q

/-- The inputs of a step are read only by RND, SKP and SKNP: every other instruction does the same under any ports. -/
def Obligations.OnlyRandomAndKeySkipsReadTheInputs : Prop :=
  ∀ (i : Instr) (s t : State) (p : Ports), (∀ x kk, i ≠ .rnd x kk) → (∀ x, i ≠ .skp x) → (∀ x, i ≠ .sknp x) →
    exec i s = .next t →
    exec i { s with env := { s.env with ports := p } } = .next { t with env := { t.env with ports := p } }

/-! ## Index register and memory -/

/-- R120 and R122: LD I,nnn and LD F,Vx, the whole byte times 5. -/
def Obligations.IndexLoads : Prop :=
  ∀ (s : State) (x : Reg) (nnn : Word),
    (∃ t, exec (.ldI nnn) s = .next t ∧ t.i = nnn ∧ t.pc = s.pc + 2 ∧ Frame { i := true } s t) ∧
    (∃ t, exec (.ldF x) s = .next t ∧ t.i.toNat = (s.reg x).toNat * 5 ∧ t.pc = s.pc + 2 ∧ Frame { i := true } s t)

/-- ADD I,Vx: modulo 4096, and no flag (decision D10, log 15). -/
def Obligations.AddToIndexWrapsAt4096 : Prop :=
  ∀ (s : State) (x : Reg),
    ∃ t, exec (.addI x) s = .next t ∧ t.i.toNat = (s.i.toNat + (s.reg x).toNat) % 4096 ∧ t.pc = s.pc + 2 ∧
      Frame { i := true } s t

/-- R123: LD B,Vx stores the hundreds, tens and ones of V[x] at EA(0), EA(1), EA(2) and nowhere else. -/
def Obligations.DecimalStoreWritesThreeDigits : Prop :=
  ∀ (s : State) (x : Reg),
    ∃ t, exec (.ldB x) s = .next t ∧
      (t.mem.read (s.ea 0)).toNat = (s.reg x).toNat / 100 ∧
      (t.mem.read (s.ea 1)).toNat = (s.reg x).toNat / 10 % 10 ∧
      (t.mem.read (s.ea 2)).toNat = (s.reg x).toNat % 10 ∧
      t.pc = s.pc + 2 ∧ Frame { stores := storedAddresses s 3 } s t

/-- R124: LD [I],Vx stores V[0] to V[x] at EA(0) to EA(x) and nowhere else. -/
def Obligations.RegisterStoreWritesTheRange : Prop :=
  ∀ (s : State) (x : Reg),
    ∃ t, exec (.ldMemVx x) s = .next t ∧ (∀ q : Reg, q ≤ x → t.mem.read (s.ea q.val) = s.reg q) ∧
      t.pc = s.pc + 2 ∧ Frame { stores := storedAddresses s (x.val + 1) } s t

/-- R125: LD Vx,[I] loads V[0] to V[x] from EA(0) to EA(x); the registers above x keep their values. -/
def Obligations.RegisterLoadReadsTheRange : Prop :=
  ∀ (s : State) (x : Reg),
    ∃ t, exec (.ldVxMem x) s = .next t ∧ (∀ q : Reg, q ≤ x → t.reg q = s.mem.read (s.ea q.val)) ∧
      t.pc = s.pc + 2 ∧ Frame { regs := (List.finRange 16).filter fun q => decide (q ≤ x) } s t

/-- Storing a register range and loading it back at once leaves every register as it was. -/
def Obligations.StoreThenLoadRestoresTheRegisters : Prop :=
  ∀ (s : State) (x : Reg), ∃ t u, exec (.ldMemVx x) s = .next t ∧ exec (.ldVxMem x) t = .next u ∧
    u.v = s.v ∧ u.i = s.i

/-- No instruction but LD B,Vx and LD [I],Vx changes a byte of memory, the glyphs included. -/
def Obligations.OnlyStoresChangeMemory : Prop :=
  ∀ (i : Instr) (s t : State) (a : Nat), exec i s = .next t → (∀ x, i ≠ .ldB x) → (∀ x, i ≠ .ldMemVx x) →
    t.mem.read a = s.mem.read a

/-- A store over the next two bytes of the instruction stream is what the next step fetches (decision D21, log 19). -/
def Obligations.StoredWordIsFetchedNext : Prop :=
  ∀ (s : State) (x k k' : Reg), k'.val = k.val + 1 → k' ≤ x → s.ea k.val = (s.pc.toNat + 2) % 4096 →
    ∃ t, exec (.ldMemVx x) s = .next t ∧ t.pc = s.pc + 2 ∧ t.fetchWord = composeWord (s.reg k) (s.reg k')

/-- The model's canonical form of memory: two canonical memories that read alike are the same data (log 24). -/
def Obligations.CanonicalMemoryIsDeterminedByItsReads : Prop :=
  ∀ m m' : Memory, m.wf = true → m'.wf = true → (∀ a, m.read a = m'.read a) → m = m'

/-! ## Framebuffer -/

/-- R130: CLS makes every cell 0 and leaves VF alone. -/
def Obligations.ClearScreenClearsEveryCell : Prop :=
  ∀ s : State, ∃ t, exec .cls s = .next t ∧ (∀ px py, px < 64 → py < 32 → pixel t.fb px py = false) ∧
    t.pc = s.pc + 2 ∧ Frame { fb := true } s t

/-- DRW: every cell a 1 bit of the sprite falls on is inverted and every other cell is untouched, each pixel wrapping on
both axes; VF is 1 iff a cell went from 1 to 0, else 0 (n = 0 and x or y = 15: decisions D22, D11, log 22, log 16). -/
def Obligations.DrawXorsTheSpriteAndReportsErasure : Prop :=
  ∀ (s : State) (x y : Reg) (n : Nat), (Instr.drw x y n).wellFormed = true →
    ∃ t, exec (.drw x y n) s = .next t ∧
      (∀ px py, px < 64 → py < 32 →
        (SpriteCovers s x y n px py → pixel t.fb px py = !pixel s.fb px py) ∧
        (¬ SpriteCovers s x y n px py → pixel t.fb px py = pixel s.fb px py)) ∧
      (SpriteErases s x y n → t.reg 15 = 1) ∧ (¬ SpriteErases s x y n → t.reg 15 = 0) ∧
      t.pc = s.pc + 2 ∧ Frame { regs := [15], fb := true } s t

/-- Drawing the same sprite twice at the same coordinates restores the framebuffer exactly, and VF after the second
drawing is 1 iff the first one set a cell. -/
def Obligations.DrawingTwiceRestoresTheFramebuffer : Prop :=
  ∀ (s t : State) (x y : Reg) (n : Nat), (Instr.drw x y n).wellFormed = true → exec (.drw x y n) s = .next t →
    t.reg x = s.reg x → t.reg y = s.reg y →
    ∃ u, exec (.drw x y n) t = .next u ∧ u.fb = s.fb ∧
      (u.reg 15 = 1 ↔ ∃ px py, px < 64 ∧ py < 32 ∧ pixel s.fb px py = false ∧ pixel t.fb px py = true)

/-- No instruction but CLS and DRW changes the framebuffer. -/
def Obligations.OnlyClearAndDrawChangeTheFramebuffer : Prop :=
  ∀ (i : Instr) (s t : State), exec i s = .next t → i ≠ .cls → (∀ x y n, i ≠ .drw x y n) → t.fb = s.fb

/-! ## Keys and timers -/

/-- SKP and SKNP skip by the sampled level of key V[x]; a value above 15 names no key and is never down
(decision D12, log 17). -/
def Obligations.KeySkipsFollowTheKeyLevel : Prop :=
  ∀ (s : State) (x : Reg),
    (∃ t, exec (.skp x) s = .next t ∧ Frame {} s t ∧
      t.pc = if (s.reg x).toNat ≤ 15 ∧ s.env.ports.keys.getLsbD (s.reg x).toNat = true then s.pc + 4 else s.pc + 2) ∧
    (∃ t, exec (.sknp x) s = .next t ∧ Frame {} s t ∧
      t.pc = if (s.reg x).toNat ≤ 15 ∧ s.env.ports.keys.getLsbD (s.reg x).toNat = true then s.pc + 2 else s.pc + 4)

/-- R144, R145 and R146: LD Vx,DT; LD DT,Vx; LD ST,Vx. That TONE, which stays, is a register is decision D17
(log 21). -/
def Obligations.TimerTransfers : Prop :=
  ∀ (s : State) (x : Reg),
    (∃ t, exec (.ldVxDt x) s = .next t ∧ t.reg x = s.dt ∧ t.pc = s.pc + 2 ∧ Frame { regs := [x] } s t) ∧
    (∃ t, exec (.ldDtVx x) s = .next t ∧ t.dt = s.reg x ∧ t.pc = s.pc + 2 ∧ Frame { dt := true } s t) ∧
    (∃ t, exec (.ldStVx x) s = .next t ∧ t.st = s.reg x ∧ t.pc = s.pc + 2 ∧ Frame { st := true } s t)

/-- R143's instruction: LD Vx,K advances pc once and makes the latch wait on x; V[x] is not written. The wait itself is
the subject of KeyWaitLastsUntilTheNextKeyEvent. -/
def Obligations.BlockOnKeyWaitsPastItself : Prop :=
  ∀ (s : State) (x : Reg),
    ∃ t, exec (.ldVxK x) s = .next t ∧ t.latch = .waiting x ∧ t.pc = s.pc + 2 ∧ Frame { latch := true } s t

/-! ## The host's transitions -/

/-- R163: a tick decrements both timers, floor 0, and recomputes the tone from ST after the decrement and returns it.
That the tone is held in the register TONE is decision D17 (log 21). That a tick touches no other state of the CORE, and
acts also while the CORE waits or holds a fault, is R164 and decision D15 (log 20). The phase is the model's (log 10). -/
def Obligations.TickDecrementsAndRecomputesTone : Prop :=
  ∀ (s : State) (rest : List HostAction), s.env.agenda = .tick :: rest →
    ∃ t, step s = .next t ∧ t.dt.toNat = s.dt.toNat - 1 ∧ t.st.toNat = s.st.toNat - 1 ∧
      t.tone = decide (t.st.toNat > 0) ∧
      t = { s with
        dt := t.dt, st := t.st, tone := t.tone,
        env := { s.env with agenda := rest, phase := .running, returned := .tone t.tone } }

/-- Any number of ticks counts both timers down, floor 0, and the tone is on after them iff ST had more left. TONE and
the acting in every state rest on decisions D17 and D15 (log 21, log 20). -/
def Obligations.TicksCountDownToZero : Prop :=
  ∀ (n : Nat) (s : State) (rest : List HostAction), s.env.agenda = List.replicate n .tick ++ rest →
    ∃ t, core.run n s = .next t ∧ t.dt.toNat = s.dt.toNat - n ∧ t.st.toNat = s.st.toNat - n ∧
      (0 < n → t.tone = decide (n < s.st.toNat)) ∧ t.env.agenda = rest ∧
      t = { s with dt := t.dt, st := t.st, tone := t.tone, env := t.env }

/-- R166: key_down of a code in 0..15 writes it into the awaited register and clears the latch; pc does not change and
FAULT is not consulted. That it changes nothing of the CORE when no key is awaited is decision D14 (log 11). -/
def Obligations.KeyDownResolvesTheLatch : Prop :=
  ∀ (s : State) (code : Nat) (rest : List HostAction), s.env.agenda = .keyDown code :: rest → code ≤ 15 →
    ∃ t, step s = .next t ∧ t.env.agenda = rest ∧
      (∀ x, s.latch = .waiting x → (t.reg x).toNat = code ∧ (∀ q, q ≠ x → t.reg q = s.reg q) ∧
        t = { s with v := t.v, latch := .notWaiting, env := t.env }) ∧
      (s.latch = .notWaiting → CoreUnchanged s t)

/-- key_down of a code above 15 is outside the interface and refused (decision D14, log 11). -/
def Obligations.KeyCodeAbove15IsRefused : Prop :=
  ∀ (s : State) (code : Nat) (rest : List HostAction), s.env.agenda = .keyDown code :: rest → 15 < code →
    step s = .refused (.keyCodeOutsideInterface code)

/-- After a key wait begins, any number of steps, whatever their inputs, changes nothing, and the very next key event,
whichever key it is, writes its code into the awaited register and ends the wait. -/
def Obligations.KeyWaitLastsUntilTheNextKeyEvent : Prop :=
  ∀ (ps : List Ports) (s : State) (x : Reg) (code : Nat) (rest : List HostAction),
    s.latch = .waiting x → code ≤ 15 →
    s.env.agenda = ps.map .step ++ .keyDown code :: rest →
    ∃ t, core.run (ps.length + 1) s = .next t ∧ t = { s with v := t.v, latch := .notWaiting, env := t.env } ∧
      t.env.agenda = rest ∧ ∀ q, t.reg q = if q = x then BitVec.ofNat 8 code else s.reg q

/-- load_program in the boot phase, with at most 3584 bytes, copies the image to 0x200 upward and changes nothing else of
the CORE (decision D18, log 10). -/
def Obligations.LoadProgramPlacesTheImage : Prop :=
  ∀ (s : State) (bytes : List Byte) (rest : List HostAction), s.env.agenda = .loadProgram bytes :: rest →
    s.env.phase = .booting → bytes.length ≤ 3584 →
    ∃ t, step s = .next t ∧ (∀ k, (h : k < bytes.length) → t.mem.read (0x200 + k) = bytes[k]) ∧
      (∀ a, a % 4096 < 0x200 ∨ 0x200 + bytes.length ≤ a % 4096 → t.mem.read a = s.mem.read a) ∧
      t.env.agenda = rest ∧ t.env.phase = .running ∧ t = { s with mem := t.mem, env := t.env }

/-- load_program of more than 3584 bytes, or after the boot phase, is refused (decision D18, log 10). -/
def Obligations.OtherProgramLoadsAreRefused : Prop :=
  ∀ (s : State) (bytes : List Byte) (rest : List HostAction), s.env.agenda = .loadProgram bytes :: rest →
    (3584 < bytes.length → step s = .refused (.programTooLong bytes.length)) ∧
    (bytes.length ≤ 3584 → s.env.phase = .running → step s = .refused .loadAfterBoot)

/-- reset() gives every piece of CORE state its reset value, from any state, and keeps the agenda and STACK_DEPTH. The
values beyond pc, the timers and the glyph area are the spec's decisions D5, D16, D17 (log 3). -/
def Obligations.ResetGivesTheResetValues : Prop :=
  ∀ (s : State) (rest : List HostAction), s.env.agenda = .reset :: rest →
    ∃ t, step s = .next t ∧ t.pc = 0x0200 ∧ t.dt = 0 ∧ t.st = 0 ∧ (∀ q, t.reg q = 0) ∧ t.i = 0 ∧ t.stack = [] ∧
      (∀ px py, px < 64 → py < 32 → pixel t.fb px py = false) ∧ t.latch = .notWaiting ∧ t.tone = false ∧
      t.fault = none ∧ (∀ a, a < 80 → t.mem.read a = Config.glyphs.getD a 0) ∧
      (∀ a, 80 ≤ a → a < 4096 → t.mem.read a = 0) ∧
      t.env.agenda = rest ∧ t.env.stackDepth = s.env.stackDepth ∧ t.env.phase = .booting

/-- R172: snapshot() returns the framebuffer and changes no state of the CORE. That the bit of column px and row py is at
index py * 64 + px is decision D23 (log 23). -/
def Obligations.SnapshotReturnsTheFramebuffer : Prop :=
  ∀ (s : State) (rest : List HostAction), s.env.agenda = .snapshot :: rest →
    ∃ t bits, step s = .next t ∧ t.env.returned = .pixels bits ∧
      (∀ px py, px < 64 → py < 32 → bits.getLsbD (py * 64 + px) = pixel s.fb px py) ∧ CoreUnchanged s t

/-- A state that has ended normally, by the spec's convention of a jump to itself, is reproduced by every further step
(decision D24, log 25). -/
def Obligations.EndedRunStaysEnded : Prop :=
  ∀ (s : State) (p : Option Ports) (rest : List HostAction), EndedNormally s → stepAhead s = some (p, rest) →
    ∃ t, step s = .next t ∧ CoreUnchanged s t ∧ t.env.returned = .done ∧ EndedNormally t
end

