-- ==== Sys2Proof/Laws/Memory.lean ====
section
/-! SUPPORT. What reading gives after a write, that every memory operation keeps the canonical form, and that equal
memories are equal lists. -/

namespace Sys2Proof.Machine

/-! ## Reading after writing -/

theorem Memory.lookup_erase (m : Memory) (a c : Nat) :
    (m.erase a).lookup c = if c = a then none else m.lookup c := by
  induction m with
  | nil => simp [Memory.erase, Memory.lookup]
  | cons e rest ih =>
    obtain ⟨a', b'⟩ := e
    simp only [Memory.erase, List.filter_cons] at ih ⊢
    by_cases h : a' = a <;> by_cases hc : c = a' <;> simp_all [Memory.lookup]

theorem Memory.lookup_insert (m : Memory) (a c : Nat) (b : Byte) (h : m.lookup a = none) :
    (m.insert a b).lookup c = if c = a then some b else m.lookup c := by
  induction m with
  | nil => simp [Memory.insert, Memory.lookup]
  | cons e rest ih =>
    obtain ⟨a', b'⟩ := e
    have ha : a ≠ a' := by
      rintro rfl
      simp [Memory.lookup] at h
    have hr : Memory.lookup rest a = none := by simpa [Memory.lookup, ha] using h
    by_cases hlt : a < a'
    · simp [Memory.insert, hlt, Memory.lookup]
    · by_cases hc : c = a'
      · subst hc
        simp [Memory.insert, hlt, Memory.lookup, Ne.symm ha]
      · simp [Memory.insert, hlt, Memory.lookup, hc, ih hr]

theorem Memory.lookup_put (m : Memory) (a c : Nat) (b : Byte) :
    ((m.put a b).lookup c).getD (Memory.initial c)
      = if c = a then b else (m.lookup c).getD (Memory.initial c) := by
  have he : (m.erase a).lookup a = none := by simp [Memory.lookup_erase]
  by_cases hb : b = Memory.initial a <;> by_cases hc : c = a <;>
    simp [Memory.put, hb, hc, Memory.lookup_erase, Memory.lookup_insert _ _ _ _ he]

/-- A read after a write: the byte written at the same address modulo 4096, the old byte elsewhere. -/
@[simp] theorem Memory.read_write (m : Memory) (a c : Nat) (b : Byte) :
    (m.write a b).read c = if c % 4096 = a % 4096 then b else m.read c := by
  simp [Memory.read, Memory.write, Memory.lookup_put]

/-- Reading depends on the address modulo 4096 only. -/
theorem Memory.read_mod (m : Memory) (a : Nat) : m.read (a % 4096) = m.read a := by simp [Memory.read]

/-- Outside the stored bytes, memory reads as before. -/
theorem Memory.read_writeBytes_outside (m : Memory) (a c : Nat) (bs : List Byte)
    (h : ∀ k, k < bs.length → c % 4096 ≠ (a + k) % 4096) : (m.writeBytes a bs).read c = m.read c := by
  induction bs generalizing m a with
  | nil => rfl
  | cons b bs ih =>
    have h0 := h 0 (by simp)
    rw [Memory.writeBytes, ih _ _ fun k hk => by
      have := h (k + 1) (by simpa using hk)
      rwa [show a + 1 + k = a + (k + 1) by omega]]
    simp_all

/-- The byte at offset `k` of a stored block shorter than the memory. -/
theorem Memory.read_writeBytes_inside (m : Memory) (a k : Nat) (bs : List Byte) (hk : k < bs.length)
    (hl : bs.length ≤ 4096) : (m.writeBytes a bs).read (a + k) = bs[k] := by
  induction bs generalizing m a k with
  | nil => simp at hk
  | cons b bs ih =>
    simp only [List.length_cons] at hk hl
    cases k with
    | zero =>
      rw [Memory.writeBytes, Memory.read_writeBytes_outside _ _ _ _ fun j hj => by omega]
      simp
    | succ k =>
      rw [Memory.writeBytes, show a + (k + 1) = a + 1 + k by omega, ih _ _ _ (by omega) (by omega)]
      simp

/-! ## The canonical form -/

theorem Memory.wfFrom_mono {lo lo' : Nat} (h : lo' ≤ lo) {m : Memory} (hm : Memory.wfFrom lo m = true) :
    Memory.wfFrom lo' m = true := by
  cases m with
  | nil => rfl
  | cons e rest =>
    obtain ⟨a, b⟩ := e
    simp only [Memory.wfFrom, Bool.and_eq_true, decide_eq_true_eq] at hm ⊢
    exact ⟨⟨by omega, hm.1.2⟩, hm.2⟩

theorem Memory.wfFrom_erase (m : Memory) (lo a : Nat) (hm : Memory.wfFrom lo m = true) :
    Memory.wfFrom lo (m.erase a) = true := by
  induction m generalizing lo with
  | nil => rfl
  | cons e rest ih =>
    obtain ⟨a', b'⟩ := e
    simp only [Memory.wfFrom, Bool.and_eq_true, decide_eq_true_eq] at hm
    have ht := ih _ hm.2
    simp only [Memory.erase, List.filter_cons] at ht ⊢
    by_cases h : a' = a
    · simpa [h] using Memory.wfFrom_mono (by omega) ht
    · simp only [h, ne_eq, not_false_eq_true, decide_true, if_true, Memory.wfFrom, Bool.and_eq_true,
        decide_eq_true_eq]
      exact ⟨hm.1, ht⟩

theorem Memory.wfFrom_insert (m : Memory) (lo a : Nat) (b : Byte) (hm : Memory.wfFrom lo m = true)
    (hlo : lo ≤ a) (ha : a < 4096) (hb : b ≠ Memory.initial a) (hn : m.lookup a = none) :
    Memory.wfFrom lo (m.insert a b) = true := by
  induction m generalizing lo with
  | nil => simp [Memory.insert, Memory.wfFrom, hlo, ha, hb]
  | cons e rest ih =>
    obtain ⟨a', b'⟩ := e
    simp only [Memory.wfFrom, Bool.and_eq_true, decide_eq_true_eq] at hm
    have hne : a ≠ a' := by
      rintro rfl
      simp [Memory.lookup] at hn
    by_cases hlt : a < a'
    · simp only [Memory.insert, hlt, if_true, Memory.wfFrom, Bool.and_eq_true, decide_eq_true_eq]
      exact ⟨⟨hlo, ha, hb⟩, ⟨by omega, hm.1.2⟩, hm.2⟩
    · simp only [Memory.insert, hlt, if_false, Memory.wfFrom, Bool.and_eq_true, decide_eq_true_eq]
      exact ⟨hm.1, ih _ hm.2 (by omega) (by simpa [Memory.lookup, hne] using hn)⟩

/-- A write keeps the canonical form. -/
theorem Memory.wf_write (m : Memory) (a : Nat) (b : Byte) (hm : m.wf = true) : (m.write a b).wf = true := by
  have he := Memory.wfFrom_erase m 0 (a % 4096) hm
  unfold Memory.write Memory.put
  split
  · exact he
  · next hb =>
    exact Memory.wfFrom_insert _ _ _ _ he (by omega) (by omega) hb (by simp [Memory.lookup_erase])

/-- Writing a block of bytes keeps the canonical form. -/
theorem Memory.wf_writeBytes (m : Memory) (a : Nat) (bs : List Byte) (hm : m.wf = true) :
    (m.writeBytes a bs).wf = true := by
  induction bs generalizing m a with
  | nil => exact hm
  | cons b bs ih => exact ih _ _ (Memory.wf_write m a b hm)

theorem Memory.lookup_below {m : Memory} {lo a : Nat} (hm : Memory.wfFrom lo m = true) (h : a < lo) :
    m.lookup a = none := by
  induction m generalizing lo with
  | nil => rfl
  | cons e rest ih =>
    obtain ⟨a', b'⟩ := e
    simp only [Memory.wfFrom, Bool.and_eq_true, decide_eq_true_eq] at hm
    have hne : a ≠ a' := by omega
    simpa [Memory.lookup, hne] using ih hm.2 (by omega)

end Sys2Proof.Machine
end

