-- ==== Sys2Proof/Laws/State.lean ====
section
/-! SUPPORT. One lemma per field per update of State, each true by rfl, so that no proof unfolds a record update.
The composite updates are first rewritten to the single ones. -/

namespace Sys2Proof.Machine

/-! ### setReg -/

theorem State.setReg_v (s : State) (r : Reg) (b : Byte) : (s.setReg r b).v = s.v.set r.val b := rfl
@[simp] theorem State.setReg_pc (s : State) (r : Reg) (b : Byte) : (s.setReg r b).pc = s.pc := rfl
@[simp] theorem State.setReg_i (s : State) (r : Reg) (b : Byte) : (s.setReg r b).i = s.i := rfl
@[simp] theorem State.setReg_dt (s : State) (r : Reg) (b : Byte) : (s.setReg r b).dt = s.dt := rfl
@[simp] theorem State.setReg_st (s : State) (r : Reg) (b : Byte) : (s.setReg r b).st = s.st := rfl
@[simp] theorem State.setReg_stack (s : State) (r : Reg) (b : Byte) : (s.setReg r b).stack = s.stack := rfl
@[simp] theorem State.setReg_fb (s : State) (r : Reg) (b : Byte) : (s.setReg r b).fb = s.fb := rfl
@[simp] theorem State.setReg_latch (s : State) (r : Reg) (b : Byte) : (s.setReg r b).latch = s.latch := rfl
@[simp] theorem State.setReg_tone (s : State) (r : Reg) (b : Byte) : (s.setReg r b).tone = s.tone := rfl
@[simp] theorem State.setReg_fault (s : State) (r : Reg) (b : Byte) : (s.setReg r b).fault = s.fault := rfl
@[simp] theorem State.setReg_mem (s : State) (r : Reg) (b : Byte) : (s.setReg r b).mem = s.mem := rfl
@[simp] theorem State.setReg_env (s : State) (r : Reg) (b : Byte) : (s.setReg r b).env = s.env := rfl

/-! ### setPc -/

@[simp] theorem State.setPc_v (s : State) (a : Word) : (s.setPc a).v = s.v := rfl
@[simp] theorem State.setPc_reg (s : State) (a : Word) (q : Reg) : (s.setPc a).reg q = s.reg q := rfl
@[simp] theorem State.setPc_pc (s : State) (a : Word) : (s.setPc a).pc = a := rfl
@[simp] theorem State.setPc_i (s : State) (a : Word) : (s.setPc a).i = s.i := rfl
@[simp] theorem State.setPc_dt (s : State) (a : Word) : (s.setPc a).dt = s.dt := rfl
@[simp] theorem State.setPc_st (s : State) (a : Word) : (s.setPc a).st = s.st := rfl
@[simp] theorem State.setPc_stack (s : State) (a : Word) : (s.setPc a).stack = s.stack := rfl
@[simp] theorem State.setPc_fb (s : State) (a : Word) : (s.setPc a).fb = s.fb := rfl
@[simp] theorem State.setPc_latch (s : State) (a : Word) : (s.setPc a).latch = s.latch := rfl
@[simp] theorem State.setPc_tone (s : State) (a : Word) : (s.setPc a).tone = s.tone := rfl
@[simp] theorem State.setPc_fault (s : State) (a : Word) : (s.setPc a).fault = s.fault := rfl
@[simp] theorem State.setPc_mem (s : State) (a : Word) : (s.setPc a).mem = s.mem := rfl
@[simp] theorem State.setPc_env (s : State) (a : Word) : (s.setPc a).env = s.env := rfl

/-! ### setI -/

@[simp] theorem State.setI_v (s : State) (a : Word) : (s.setI a).v = s.v := rfl
@[simp] theorem State.setI_reg (s : State) (a : Word) (q : Reg) : (s.setI a).reg q = s.reg q := rfl
@[simp] theorem State.setI_pc (s : State) (a : Word) : (s.setI a).pc = s.pc := rfl
@[simp] theorem State.setI_i (s : State) (a : Word) : (s.setI a).i = a := rfl
@[simp] theorem State.setI_dt (s : State) (a : Word) : (s.setI a).dt = s.dt := rfl
@[simp] theorem State.setI_st (s : State) (a : Word) : (s.setI a).st = s.st := rfl
@[simp] theorem State.setI_stack (s : State) (a : Word) : (s.setI a).stack = s.stack := rfl
@[simp] theorem State.setI_fb (s : State) (a : Word) : (s.setI a).fb = s.fb := rfl
@[simp] theorem State.setI_latch (s : State) (a : Word) : (s.setI a).latch = s.latch := rfl
@[simp] theorem State.setI_tone (s : State) (a : Word) : (s.setI a).tone = s.tone := rfl
@[simp] theorem State.setI_fault (s : State) (a : Word) : (s.setI a).fault = s.fault := rfl
@[simp] theorem State.setI_mem (s : State) (a : Word) : (s.setI a).mem = s.mem := rfl
@[simp] theorem State.setI_env (s : State) (a : Word) : (s.setI a).env = s.env := rfl

/-! ### setDt -/

@[simp] theorem State.setDt_v (s : State) (b : Byte) : (s.setDt b).v = s.v := rfl
@[simp] theorem State.setDt_reg (s : State) (b : Byte) (q : Reg) : (s.setDt b).reg q = s.reg q := rfl
@[simp] theorem State.setDt_pc (s : State) (b : Byte) : (s.setDt b).pc = s.pc := rfl
@[simp] theorem State.setDt_i (s : State) (b : Byte) : (s.setDt b).i = s.i := rfl
@[simp] theorem State.setDt_dt (s : State) (b : Byte) : (s.setDt b).dt = b := rfl
@[simp] theorem State.setDt_st (s : State) (b : Byte) : (s.setDt b).st = s.st := rfl
@[simp] theorem State.setDt_stack (s : State) (b : Byte) : (s.setDt b).stack = s.stack := rfl
@[simp] theorem State.setDt_fb (s : State) (b : Byte) : (s.setDt b).fb = s.fb := rfl
@[simp] theorem State.setDt_latch (s : State) (b : Byte) : (s.setDt b).latch = s.latch := rfl
@[simp] theorem State.setDt_tone (s : State) (b : Byte) : (s.setDt b).tone = s.tone := rfl
@[simp] theorem State.setDt_fault (s : State) (b : Byte) : (s.setDt b).fault = s.fault := rfl
@[simp] theorem State.setDt_mem (s : State) (b : Byte) : (s.setDt b).mem = s.mem := rfl
@[simp] theorem State.setDt_env (s : State) (b : Byte) : (s.setDt b).env = s.env := rfl

/-! ### setSt -/

@[simp] theorem State.setSt_v (s : State) (b : Byte) : (s.setSt b).v = s.v := rfl
@[simp] theorem State.setSt_reg (s : State) (b : Byte) (q : Reg) : (s.setSt b).reg q = s.reg q := rfl
@[simp] theorem State.setSt_pc (s : State) (b : Byte) : (s.setSt b).pc = s.pc := rfl
@[simp] theorem State.setSt_i (s : State) (b : Byte) : (s.setSt b).i = s.i := rfl
@[simp] theorem State.setSt_dt (s : State) (b : Byte) : (s.setSt b).dt = s.dt := rfl
@[simp] theorem State.setSt_st (s : State) (b : Byte) : (s.setSt b).st = b := rfl
@[simp] theorem State.setSt_stack (s : State) (b : Byte) : (s.setSt b).stack = s.stack := rfl
@[simp] theorem State.setSt_fb (s : State) (b : Byte) : (s.setSt b).fb = s.fb := rfl
@[simp] theorem State.setSt_latch (s : State) (b : Byte) : (s.setSt b).latch = s.latch := rfl
@[simp] theorem State.setSt_tone (s : State) (b : Byte) : (s.setSt b).tone = s.tone := rfl
@[simp] theorem State.setSt_fault (s : State) (b : Byte) : (s.setSt b).fault = s.fault := rfl
@[simp] theorem State.setSt_mem (s : State) (b : Byte) : (s.setSt b).mem = s.mem := rfl
@[simp] theorem State.setSt_env (s : State) (b : Byte) : (s.setSt b).env = s.env := rfl

/-! ### setTone -/

@[simp] theorem State.setTone_v (s : State) (b : Bool) : (s.setTone b).v = s.v := rfl
@[simp] theorem State.setTone_reg (s : State) (b : Bool) (q : Reg) : (s.setTone b).reg q = s.reg q := rfl
@[simp] theorem State.setTone_pc (s : State) (b : Bool) : (s.setTone b).pc = s.pc := rfl
@[simp] theorem State.setTone_i (s : State) (b : Bool) : (s.setTone b).i = s.i := rfl
@[simp] theorem State.setTone_dt (s : State) (b : Bool) : (s.setTone b).dt = s.dt := rfl
@[simp] theorem State.setTone_st (s : State) (b : Bool) : (s.setTone b).st = s.st := rfl
@[simp] theorem State.setTone_stack (s : State) (b : Bool) : (s.setTone b).stack = s.stack := rfl
@[simp] theorem State.setTone_fb (s : State) (b : Bool) : (s.setTone b).fb = s.fb := rfl
@[simp] theorem State.setTone_latch (s : State) (b : Bool) : (s.setTone b).latch = s.latch := rfl
@[simp] theorem State.setTone_tone (s : State) (b : Bool) : (s.setTone b).tone = b := rfl
@[simp] theorem State.setTone_fault (s : State) (b : Bool) : (s.setTone b).fault = s.fault := rfl
@[simp] theorem State.setTone_mem (s : State) (b : Bool) : (s.setTone b).mem = s.mem := rfl
@[simp] theorem State.setTone_env (s : State) (b : Bool) : (s.setTone b).env = s.env := rfl

/-! ### setLatch -/

@[simp] theorem State.setLatch_v (s : State) (l : Latch) : (s.setLatch l).v = s.v := rfl
@[simp] theorem State.setLatch_reg (s : State) (l : Latch) (q : Reg) : (s.setLatch l).reg q = s.reg q := rfl
@[simp] theorem State.setLatch_pc (s : State) (l : Latch) : (s.setLatch l).pc = s.pc := rfl
@[simp] theorem State.setLatch_i (s : State) (l : Latch) : (s.setLatch l).i = s.i := rfl
@[simp] theorem State.setLatch_dt (s : State) (l : Latch) : (s.setLatch l).dt = s.dt := rfl
@[simp] theorem State.setLatch_st (s : State) (l : Latch) : (s.setLatch l).st = s.st := rfl
@[simp] theorem State.setLatch_stack (s : State) (l : Latch) : (s.setLatch l).stack = s.stack := rfl
@[simp] theorem State.setLatch_fb (s : State) (l : Latch) : (s.setLatch l).fb = s.fb := rfl
@[simp] theorem State.setLatch_latch (s : State) (l : Latch) : (s.setLatch l).latch = l := rfl
@[simp] theorem State.setLatch_tone (s : State) (l : Latch) : (s.setLatch l).tone = s.tone := rfl
@[simp] theorem State.setLatch_fault (s : State) (l : Latch) : (s.setLatch l).fault = s.fault := rfl
@[simp] theorem State.setLatch_mem (s : State) (l : Latch) : (s.setLatch l).mem = s.mem := rfl
@[simp] theorem State.setLatch_env (s : State) (l : Latch) : (s.setLatch l).env = s.env := rfl

/-! ### setFb -/

@[simp] theorem State.setFb_v (s : State) (g : FrameBuffer) : (s.setFb g).v = s.v := rfl
@[simp] theorem State.setFb_reg (s : State) (g : FrameBuffer) (q : Reg) : (s.setFb g).reg q = s.reg q := rfl
@[simp] theorem State.setFb_pc (s : State) (g : FrameBuffer) : (s.setFb g).pc = s.pc := rfl
@[simp] theorem State.setFb_i (s : State) (g : FrameBuffer) : (s.setFb g).i = s.i := rfl
@[simp] theorem State.setFb_dt (s : State) (g : FrameBuffer) : (s.setFb g).dt = s.dt := rfl
@[simp] theorem State.setFb_st (s : State) (g : FrameBuffer) : (s.setFb g).st = s.st := rfl
@[simp] theorem State.setFb_stack (s : State) (g : FrameBuffer) : (s.setFb g).stack = s.stack := rfl
@[simp] theorem State.setFb_fb (s : State) (g : FrameBuffer) : (s.setFb g).fb = g := rfl
@[simp] theorem State.setFb_latch (s : State) (g : FrameBuffer) : (s.setFb g).latch = s.latch := rfl
@[simp] theorem State.setFb_tone (s : State) (g : FrameBuffer) : (s.setFb g).tone = s.tone := rfl
@[simp] theorem State.setFb_fault (s : State) (g : FrameBuffer) : (s.setFb g).fault = s.fault := rfl
@[simp] theorem State.setFb_mem (s : State) (g : FrameBuffer) : (s.setFb g).mem = s.mem := rfl
@[simp] theorem State.setFb_env (s : State) (g : FrameBuffer) : (s.setFb g).env = s.env := rfl

/-! ### setMem -/

@[simp] theorem State.setMem_v (s : State) (m : Memory) : (s.setMem m).v = s.v := rfl
@[simp] theorem State.setMem_reg (s : State) (m : Memory) (q : Reg) : (s.setMem m).reg q = s.reg q := rfl
@[simp] theorem State.setMem_pc (s : State) (m : Memory) : (s.setMem m).pc = s.pc := rfl
@[simp] theorem State.setMem_i (s : State) (m : Memory) : (s.setMem m).i = s.i := rfl
@[simp] theorem State.setMem_dt (s : State) (m : Memory) : (s.setMem m).dt = s.dt := rfl
@[simp] theorem State.setMem_st (s : State) (m : Memory) : (s.setMem m).st = s.st := rfl
@[simp] theorem State.setMem_stack (s : State) (m : Memory) : (s.setMem m).stack = s.stack := rfl
@[simp] theorem State.setMem_fb (s : State) (m : Memory) : (s.setMem m).fb = s.fb := rfl
@[simp] theorem State.setMem_latch (s : State) (m : Memory) : (s.setMem m).latch = s.latch := rfl
@[simp] theorem State.setMem_tone (s : State) (m : Memory) : (s.setMem m).tone = s.tone := rfl
@[simp] theorem State.setMem_fault (s : State) (m : Memory) : (s.setMem m).fault = s.fault := rfl
@[simp] theorem State.setMem_mem (s : State) (m : Memory) : (s.setMem m).mem = m := rfl
@[simp] theorem State.setMem_env (s : State) (m : Memory) : (s.setMem m).env = s.env := rfl

/-! ### setStack -/

@[simp] theorem State.setStack_v (s : State) (l : List Word) : (s.setStack l).v = s.v := rfl
@[simp] theorem State.setStack_reg (s : State) (l : List Word) (q : Reg) : (s.setStack l).reg q = s.reg q := rfl
@[simp] theorem State.setStack_pc (s : State) (l : List Word) : (s.setStack l).pc = s.pc := rfl
@[simp] theorem State.setStack_i (s : State) (l : List Word) : (s.setStack l).i = s.i := rfl
@[simp] theorem State.setStack_dt (s : State) (l : List Word) : (s.setStack l).dt = s.dt := rfl
@[simp] theorem State.setStack_st (s : State) (l : List Word) : (s.setStack l).st = s.st := rfl
@[simp] theorem State.setStack_stack (s : State) (l : List Word) : (s.setStack l).stack = l := rfl
@[simp] theorem State.setStack_fb (s : State) (l : List Word) : (s.setStack l).fb = s.fb := rfl
@[simp] theorem State.setStack_latch (s : State) (l : List Word) : (s.setStack l).latch = s.latch := rfl
@[simp] theorem State.setStack_tone (s : State) (l : List Word) : (s.setStack l).tone = s.tone := rfl
@[simp] theorem State.setStack_fault (s : State) (l : List Word) : (s.setStack l).fault = s.fault := rfl
@[simp] theorem State.setStack_mem (s : State) (l : List Word) : (s.setStack l).mem = s.mem := rfl
@[simp] theorem State.setStack_env (s : State) (l : List Word) : (s.setStack l).env = s.env := rfl

/-! ### setEnv -/

@[simp] theorem State.setEnv_v (s : State) (e : Env) : (s.setEnv e).v = s.v := rfl
@[simp] theorem State.setEnv_reg (s : State) (e : Env) (q : Reg) : (s.setEnv e).reg q = s.reg q := rfl
@[simp] theorem State.setEnv_pc (s : State) (e : Env) : (s.setEnv e).pc = s.pc := rfl
@[simp] theorem State.setEnv_i (s : State) (e : Env) : (s.setEnv e).i = s.i := rfl
@[simp] theorem State.setEnv_dt (s : State) (e : Env) : (s.setEnv e).dt = s.dt := rfl
@[simp] theorem State.setEnv_st (s : State) (e : Env) : (s.setEnv e).st = s.st := rfl
@[simp] theorem State.setEnv_stack (s : State) (e : Env) : (s.setEnv e).stack = s.stack := rfl
@[simp] theorem State.setEnv_fb (s : State) (e : Env) : (s.setEnv e).fb = s.fb := rfl
@[simp] theorem State.setEnv_latch (s : State) (e : Env) : (s.setEnv e).latch = s.latch := rfl
@[simp] theorem State.setEnv_tone (s : State) (e : Env) : (s.setEnv e).tone = s.tone := rfl
@[simp] theorem State.setEnv_fault (s : State) (e : Env) : (s.setEnv e).fault = s.fault := rfl
@[simp] theorem State.setEnv_mem (s : State) (e : Env) : (s.setEnv e).mem = s.mem := rfl
@[simp] theorem State.setEnv_env (s : State) (e : Env) : (s.setEnv e).env = e := rfl

/-! ### raise -/

@[simp] theorem State.raise_v (s : State) (r : FaultRecord) : (s.raise r).v = s.v := rfl
@[simp] theorem State.raise_reg (s : State) (r : FaultRecord) (q : Reg) : (s.raise r).reg q = s.reg q := rfl
@[simp] theorem State.raise_pc (s : State) (r : FaultRecord) : (s.raise r).pc = s.pc := rfl
@[simp] theorem State.raise_i (s : State) (r : FaultRecord) : (s.raise r).i = s.i := rfl
@[simp] theorem State.raise_dt (s : State) (r : FaultRecord) : (s.raise r).dt = s.dt := rfl
@[simp] theorem State.raise_st (s : State) (r : FaultRecord) : (s.raise r).st = s.st := rfl
@[simp] theorem State.raise_stack (s : State) (r : FaultRecord) : (s.raise r).stack = s.stack := rfl
@[simp] theorem State.raise_fb (s : State) (r : FaultRecord) : (s.raise r).fb = s.fb := rfl
@[simp] theorem State.raise_latch (s : State) (r : FaultRecord) : (s.raise r).latch = s.latch := rfl
@[simp] theorem State.raise_tone (s : State) (r : FaultRecord) : (s.raise r).tone = s.tone := rfl
@[simp] theorem State.raise_fault (s : State) (r : FaultRecord) : (s.raise r).fault = some r := rfl
@[simp] theorem State.raise_mem (s : State) (r : FaultRecord) : (s.raise r).mem = s.mem := rfl
@[simp] theorem State.raise_env (s : State) (r : FaultRecord) : (s.raise r).env = s.env := rfl

/-! ### loadAtI -/

@[simp] theorem State.loadAtI_pc (s : State) (n : Nat) : (s.loadAtI n).pc = s.pc := rfl
@[simp] theorem State.loadAtI_i (s : State) (n : Nat) : (s.loadAtI n).i = s.i := rfl
@[simp] theorem State.loadAtI_dt (s : State) (n : Nat) : (s.loadAtI n).dt = s.dt := rfl
@[simp] theorem State.loadAtI_st (s : State) (n : Nat) : (s.loadAtI n).st = s.st := rfl
@[simp] theorem State.loadAtI_stack (s : State) (n : Nat) : (s.loadAtI n).stack = s.stack := rfl
@[simp] theorem State.loadAtI_fb (s : State) (n : Nat) : (s.loadAtI n).fb = s.fb := rfl
@[simp] theorem State.loadAtI_latch (s : State) (n : Nat) : (s.loadAtI n).latch = s.latch := rfl
@[simp] theorem State.loadAtI_tone (s : State) (n : Nat) : (s.loadAtI n).tone = s.tone := rfl
@[simp] theorem State.loadAtI_fault (s : State) (n : Nat) : (s.loadAtI n).fault = s.fault := rfl
@[simp] theorem State.loadAtI_mem (s : State) (n : Nat) : (s.loadAtI n).mem = s.mem := rfl
@[simp] theorem State.loadAtI_env (s : State) (n : Nat) : (s.loadAtI n).env = s.env := rfl

/-! ### Reading a register after a register write -/

@[simp] theorem State.setReg_reg (s : State) (r q : Reg) (b : Byte) :
    (s.setReg r b).reg q = if q = r then b else s.reg q := by
  simp only [State.reg, State.setReg, Vector.getElem_set, Fin.ext_iff, eq_comm]

/-! ### Composite updates, rewritten to single ones -/

@[simp] theorem State.npc_eq (s : State) : s.npc = s.pc + 2 := rfl

@[simp] theorem State.advance_eq (s : State) : s.advance = s.setPc (s.pc + 2) := rfl

@[simp] theorem State.skipIf_eq (s : State) (c : Bool) :
    s.skipIf c = s.setPc (if c then s.pc + 4 else s.pc + 2) := by
  cases c
  · rfl
  · simp [State.skipIf, BitVec.add_assoc]

@[simp] theorem State.storeAtI_eq (s : State) (bytes : List Byte) :
    s.storeAtI bytes = s.setMem (s.mem.writeBytes s.i.toNat bytes) := rfl

@[simp] theorem State.placeWord_eq (s : State) (w : Word) :
    s.placeWord w = s.setMem (s.mem.writeBytes s.pc.toNat [highByte w, lowByte w]) := rfl

@[simp] theorem State.writeFlagThenResult_eq (s : State) (c : Bool) (x : Reg) (b : Byte) :
    s.writeFlagThenResult c x b = (s.setReg 15 (flagByte c)).setReg x b := rfl

@[simp] theorem State.returning_eq (s : State) (r : Returned) :
    s.returning r = s.setEnv { s.env with returned := r } := rfl

@[simp] theorem State.withAgenda_eq (s : State) (rest : List HostAction) :
    s.withAgenda rest = s.setEnv { s.env with agenda := rest } := rfl

@[simp] theorem State.running_eq (s : State) : s.running = s.setEnv { s.env with phase := .running } := rfl

@[simp] theorem State.snapshotAction_eq (s : State) :
    s.snapshotAction = s.setEnv { s.env with returned := .pixels s.fb } := rfl

@[simp] theorem State.tick_eq (s : State) :
    s.tick = ((s.setDt (countdown s.dt)).setSt (countdown s.st)).setTone (decide (countdown s.st ≠ 0)) := rfl

/-- Sampling changes the host's side only. -/
theorem State.sample_setEnv (s : State) (p : Option Ports) : s.sample p = s.setEnv (s.sample p).env := by
  cases p <;> rfl

end Sys2Proof.Machine
end

