-- ==== Sys2Proof/Laws/Ops.lean ====
section
/-! SUPPORT. One lemma per shared operation: everything it does, so that callers need not unfold it. -/

namespace Sys2Proof.Machine

/-! ## Registers and memory through I -/

/-- Writing the first `n` registers from a byte function. -/
theorem foldl_setIfInBounds (f : Nat → Byte) (n : Nat) (v : Vector Byte 16) (q : Nat) (hq : q < 16) :
    ((List.range n).foldl (fun v k => v.setIfInBounds k (f k)) v)[q] = if q < n then f q else v[q] := by
  induction n with
  | zero => simp
  | succ n ih =>
    rw [List.range_succ, List.foldl_append, List.foldl_cons, List.foldl_nil, Vector.getElem_setIfInBounds, ih]
    by_cases h : n = q
    · simp [h]
    · simp [h, show q < n + 1 ↔ q < n by omega]

/-- LD Vx,[I] loads the first `n` registers and keeps the others. -/
@[simp] theorem State.loadAtI_reg (s : State) (n : Nat) (q : Reg) :
    (s.loadAtI n).reg q = if q.val < n then s.readAtI q.val else s.reg q :=
  foldl_setIfInBounds s.readAtI n s.v q.val q.isLt

/-- The range V[0..x] has x + 1 bytes. -/
@[simp] theorem regRange_length (s : State) (x : Reg) : (regRange s x).length = x.val + 1 := by
  simp [regRange]

/-- The byte at offset `k` of the range V[0..x] is V[k]. -/
theorem regRange_getElem (s : State) (x : Reg) (k : Nat) (hk : k < (regRange s x).length) :
    (regRange s x)[k] = s.reg ⟨k, by simp at hk; omega⟩ := by
  simp [regRange, State.reg]

@[simp] theorem decimalDigits_length (v : Byte) : (decimalDigits v).length = 3 := rfl

@[simp] theorem spriteOperand_length (s : State) (n : Nat) : (spriteOperand s n).length = n := by
  simp [spriteOperand]

theorem spriteOperand_getElem (s : State) (n k : Nat) (hk : k < (spriteOperand s n).length) :
    (spriteOperand s n)[k] = s.readAtI k := by
  simp [spriteOperand]

/-! ## Words and bytes -/

theorem composeWord_toNat (hi lo : Byte) : (composeWord hi lo).toNat = hi.toNat * 256 + lo.toNat := by
  have := lo.isLt
  rw [composeWord, BitVec.toNat_append, ← Nat.shiftLeft_add_eq_or_of_lt lo.isLt, Nat.shiftLeft_eq]

/-- The two bytes of a word make the word. -/
@[simp] theorem composeWord_bytes (w : Word) : composeWord (highByte w) (lowByte w) = w := by
  apply BitVec.eq_of_toNat_eq
  have := w.isLt
  rw [composeWord_toNat]
  simp [highByte, lowByte, BitVec.extractLsb'_toNat, Nat.shiftRight_eq_div_pow]
  omega

/-- Fetching looks at pc and memory only. -/
@[simp] theorem State.fetchWord_setEnv (s : State) (e : Env) : (s.setEnv e).fetchWord = s.fetchWord := rfl

@[simp] theorem State.fetchWord_setReg (s : State) (r : Reg) (b : Byte) : (s.setReg r b).fetchWord = s.fetchWord := rfl

/-- A word placed at pc is the word fetched. -/
@[simp] theorem State.fetchWord_placeWord (s : State) (w : Word) : (s.placeWord w).fetchWord = w := by
  have h0 := Memory.read_writeBytes_inside s.mem s.pc.toNat 0 [highByte w, lowByte w] (by simp) (by simp)
  have h1 := Memory.read_writeBytes_inside s.mem s.pc.toNat 1 [highByte w, lowByte w] (by simp) (by simp)
  simp only [Nat.add_zero, List.getElem_cons_zero, List.getElem_cons_succ] at h0 h1
  simp only [State.placeWord_eq, State.fetchWord, State.setMem_mem, State.setMem_pc, h0, h1, composeWord_bytes]

/-! ## The framebuffer -/

/-- A toggle inverts its cell and no other. -/
theorem Canvas.toggle_getLsbD (c : Canvas) (xc yc i : Nat) (hi : i < 2048) :
    (c.toggle xc yc).fb.getLsbD i = (c.fb.getLsbD i ^^ decide (i = pixelIndex (xc % 64) (yc % 32))) := by
  simp [Canvas.toggle, hi]

/-- A toggle notes an erasure iff its cell was 1, and forgets none. -/
theorem Canvas.toggle_erased (c : Canvas) (xc yc : Nat) :
    (c.toggle xc yc).erased = (c.erased || c.fb.getLsbD (pixelIndex (xc % 64) (yc % 32))) := rfl

/-- Rows are drawn one after another, top row first. -/
theorem Canvas.drawRows_append (c : Canvas) (xc yc : Nat) (bs bs' : List Byte) :
    c.drawRows xc yc (bs ++ bs') = (c.drawRows xc yc bs).drawRows xc (yc + bs.length) bs' := by
  induction bs generalizing c yc with
  | nil => rfl
  | cons b bs ih =>
    rw [List.cons_append, Canvas.drawRows, ih, List.length_cons, show yc + 1 + bs.length = yc + (bs.length + 1) by omega]
    rfl

end Sys2Proof.Machine
end

