-- ==== Sys2Proof/Laws/Display.lean ====
section
/-! SUPPORT. Everything drawing a sprite does (43_display.md R131, R132): a drawing is a list of toggled cells, the
cells of one sprite are distinct, so each is inverted once, and the erasure flag tells whether one of them was 1. -/

namespace Sys2Proof.Machine

/-! ## A list of toggles -/

/-- Toggle the cells of a list, one after another. -/
def Canvas.toggleAll (c : Canvas) (cells : List (Nat × Nat)) : Canvas :=
  cells.foldl (fun c p => c.toggle p.1 p.2) c

/-- The index of the cell a toggle inverts. -/
def cellIndex (p : Nat × Nat) : Nat := pixelIndex (p.1 % 64) (p.2 % 32)

theorem cellIndex_lt (p : Nat × Nat) : cellIndex p < 2048 := by simp [cellIndex, pixelIndex]; omega

theorem Canvas.toggleAll_fb (c : Canvas) (cells : List (Nat × Nat)) (h : (cells.map cellIndex).Nodup) (i : Nat)
    (hi : i < 2048) :
    (c.toggleAll cells).fb.getLsbD i = (c.fb.getLsbD i ^^ decide (i ∈ cells.map cellIndex)) := by
  induction cells generalizing c with
  | nil => simp [Canvas.toggleAll]
  | cons p ps ih =>
    rw [List.map_cons, List.nodup_cons] at h
    have ht := Canvas.toggle_getLsbD c p.1 p.2 i hi
    rw [Canvas.toggleAll, List.foldl_cons]
    refine (ih (c.toggle p.1 p.2) h.2).trans ?_
    rw [ht]
    by_cases he : i = cellIndex p
    · have hn : i ∉ ps.map cellIndex := he ▸ h.1
      have hp : i = pixelIndex (p.1 % 64) (p.2 % 32) := he
      simp only [hn, ← hp, List.map_cons, List.mem_cons, ← he, true_or, decide_true, decide_false, Bool.xor_false]
    · simp only [show ¬ i = pixelIndex (p.1 % 64) (p.2 % 32) from he, List.map_cons, List.mem_cons, he, false_or,
        decide_false, Bool.xor_false]

theorem Canvas.toggleAll_erased (c : Canvas) (cells : List (Nat × Nat)) (h : (cells.map cellIndex).Nodup) :
    (c.toggleAll cells).erased = (c.erased || cells.any fun p => c.fb.getLsbD (cellIndex p)) := by
  induction cells generalizing c with
  | nil => simp [Canvas.toggleAll]
  | cons p ps ih =>
    rw [List.map_cons, List.nodup_cons] at h
    rw [Canvas.toggleAll, List.foldl_cons]
    refine (ih (c.toggle p.1 p.2) h.2).trans ?_
    have hps : (ps.any fun q => (c.toggle p.1 p.2).fb.getLsbD (cellIndex q))
        = ps.any fun q => c.fb.getLsbD (cellIndex q) := by
      rw [Bool.eq_iff_iff, List.any_eq_true, List.any_eq_true]
      refine exists_congr fun q => and_congr_right fun hq => ?_
      have hne : cellIndex q ≠ cellIndex p := fun he => h.1 (he ▸ List.mem_map_of_mem hq)
      rw [Canvas.toggle_getLsbD _ _ _ _ (cellIndex_lt q)]
      simp [show ¬ cellIndex q = pixelIndex (p.1 % 64) (p.2 % 32) from hne]
    rw [hps, Canvas.toggle_erased, List.any_cons, Bool.or_assoc]
    rfl

/-! ## The cells of a sprite -/

/-- The columns of the 1 bits of a sprite row, most significant bit first. -/
def rowColumns (b : Byte) : List Nat := (List.range 8).filter fun col => b.getLsbD (7 - col)

/-- The cells of one sprite row. -/
def rowCells (xc yc : Nat) (b : Byte) : List (Nat × Nat) := (rowColumns b).map fun col => (xc + col, yc)

/-- The cells of a sprite, row by row. -/
def spriteCells (xc yc : Nat) : List Byte → List (Nat × Nat)
  | [] => []
  | b :: bs => rowCells xc yc b ++ spriteCells xc (yc + 1) bs

theorem foldl_if_filter {α β : Type} (f : β → α → β) (p : α → Bool) (l : List α) (c : β) :
    l.foldl (fun c a => if p a then f c a else c) c = (l.filter p).foldl f c := by
  induction l generalizing c with
  | nil => rfl
  | cons a l ih => cases h : p a <;> simp [h, ih]

theorem Canvas.drawRow_eq (c : Canvas) (xc yc : Nat) (b : Byte) :
    c.drawRow xc yc b = c.toggleAll (rowCells xc yc b) := by
  refine (foldl_if_filter (fun (c : Canvas) col => c.toggle (xc + col) yc) (fun col => b.getLsbD (7 - col)) _ c).trans ?_
  simp [Canvas.toggleAll, rowCells, rowColumns, List.foldl_map]

theorem Canvas.drawRows_eq (c : Canvas) (xc yc : Nat) (bs : List Byte) :
    c.drawRows xc yc bs = c.toggleAll (spriteCells xc yc bs) := by
  induction bs generalizing c yc with
  | nil => rfl
  | cons b bs ih =>
    rw [Canvas.drawRows, ih, Canvas.drawRow_eq, spriteCells, Canvas.toggleAll, Canvas.toggleAll, Canvas.toggleAll,
      List.foldl_append]

theorem mem_spriteCells (xc yc : Nat) (bs : List Byte) (p : Nat × Nat) :
    p ∈ spriteCells xc yc bs ↔ ∃ row col, ∃ h : row < bs.length, col < 8 ∧ bs[row].getLsbD (7 - col) = true ∧
      p = (xc + col, yc + row) := by
  induction bs generalizing yc with
  | nil => simp [spriteCells]
  | cons b bs ih =>
    simp only [spriteCells, rowCells, rowColumns, List.mem_append, List.mem_map, List.mem_filter, List.mem_range, ih]
    constructor
    · rintro (⟨col, ⟨hc, hb⟩, rfl⟩ | ⟨row, col, h, hc, hb, rfl⟩)
      · exact ⟨0, col, by simp, hc, hb, rfl⟩
      · exact ⟨row + 1, col, by simpa using h, hc, by simpa using hb, by simp; omega⟩
    · rintro ⟨row, col, h, hc, hb, rfl⟩
      cases row with
      | zero => exact .inl ⟨col, ⟨hc, by simpa using hb⟩, rfl⟩
      | succ row => exact .inr ⟨row, col, by simpa using h, hc, by simpa using hb, by simp; omega⟩

/-- Within one sprite of at most 32 rows no cell is toggled twice (43_display.md R131 item 5). -/
theorem spriteCells_nodup (xc yc : Nat) (bs : List Byte) (hl : bs.length ≤ 32) :
    ((spriteCells xc yc bs).map cellIndex).Nodup := by
  induction bs generalizing yc with
  | nil => simp [spriteCells]
  | cons b bs ih =>
    simp only [List.length_cons] at hl
    rw [spriteCells, List.map_append, List.nodup_append]
    refine ⟨?_, ih (yc + 1) (by omega), ?_⟩
    · rw [rowCells, List.map_map]
      refine (List.nodup_range.filter _).map_on ?_
      intro a ha a' ha' he
      simp only [List.mem_filter, List.mem_range] at ha ha'
      simp only [Function.comp, cellIndex, pixelIndex] at he
      omega
    · intro i hi j hj he
      subst he
      simp only [List.mem_map, rowCells, rowColumns, List.mem_filter, List.mem_range, mem_spriteCells] at hi hj
      obtain ⟨_, ⟨col, _, rfl⟩, rfl⟩ := hi
      obtain ⟨_, ⟨row, col', h, _, _, rfl⟩, he⟩ := hj
      simp only [cellIndex, pixelIndex] at he
      omega

/-- Drawing a sprite of at most 32 rows: the cells of its 1 bits are inverted and no other cell is. -/
theorem Canvas.drawRows_fb (c : Canvas) (xc yc : Nat) (bs : List Byte) (hl : bs.length ≤ 32) (i : Nat) (hi : i < 2048) :
    (c.drawRows xc yc bs).fb.getLsbD i
      = (c.fb.getLsbD i ^^ decide (i ∈ (spriteCells xc yc bs).map cellIndex)) := by
  rw [Canvas.drawRows_eq, Canvas.toggleAll_fb _ _ (spriteCells_nodup xc yc bs hl) _ hi]

/-- Drawing a sprite of at most 32 rows reports an erasure iff one of the cells of its 1 bits was 1. -/
theorem Canvas.drawRows_erased (c : Canvas) (xc yc : Nat) (bs : List Byte) (hl : bs.length ≤ 32) :
    (c.drawRows xc yc bs).erased
      = (c.erased || (spriteCells xc yc bs).any fun p => c.fb.getLsbD (cellIndex p)) := by
  rw [Canvas.drawRows_eq, Canvas.toggleAll_erased _ _ (spriteCells_nodup xc yc bs hl)]

end Sys2Proof.Machine
end

