-- ==== Sys2Proof/Laws/Flags.lean ====
section
/-! SUPPORT. The exact results of 41_alu.md R100 are the bit-vector ones, and a flag is 0 or 1. -/

namespace Sys2Proof.Machine

theorem sumByte_eq (a b : Byte) : sumByte a b = a + b := by
  apply BitVec.eq_of_toNat_eq
  simp [sumByte, exactSum, BitVec.toNat_add]

theorem differenceByte_eq (a b : Byte) : differenceByte a b = a - b := by
  apply BitVec.eq_of_toNat_eq
  have ha := a.isLt
  have hb := b.isLt
  simp only [differenceByte, BitVec.toNat_ofInt, BitVec.toNat_sub]
  omega

theorem flagByte_zero_or_one (c : Bool) : flagByte c = 0 ∨ flagByte c = 1 := by cases c <;> simp [flagByte]

theorem zext16_toNat (b : Byte) : (zext16 b).toNat = b.toNat := by
  have := b.isLt
  simp [zext16]
  omega

end Sys2Proof.Machine
end

