-- ==== Sys2Proof/Laws/PerInstr.lean ====
section
/-! SUPPORT. Per instruction: its encoding selects its own row of the opcode map (30_encoding.md R66). -/

namespace Sys2Proof.Laws.EncodeSelectsRow

/-- The encoded word selects the instruction's row, and the row is one of the 34. -/
def Statement (i : Instr) : Prop := (rowOf i).selectedBy (encode i) = true ∧ rowOf i ∈ opcodeTable

/-! ## One lemma per format -/

theorem selects_A (op : Nat) (nnn : Word) (h : op < 16) :
    formatA op nnn &&& 0xF000#16 = BitVec.ofNat 16 (op * 4096) := by
  apply BitVec.eq_of_toNat_eq
  simp only [and_F000_toNat, formatA_toNat op nnn h, BitVec.toNat_ofNat]
  omega

theorem selects_XK (op : Nat) (x : Reg) (kk : Byte) (h : op < 16) :
    formatXK op x kk &&& 0xF000#16 = BitVec.ofNat 16 (op * 4096) := by
  have := kk.isLt
  apply BitVec.eq_of_toNat_eq
  simp only [and_F000_toNat, formatXK_toNat op x kk h, BitVec.toNat_ofNat]
  omega

theorem selects_X (op : Nat) (x : Reg) (kk : Byte) (h : op < 16) :
    formatXK op x kk &&& 0xF0FF#16 = BitVec.ofNat 16 (op * 4096 + kk.toNat) := by
  have := kk.isLt
  apply BitVec.eq_of_toNat_eq
  simp only [and_F0FF_toNat, formatXK_toNat op x kk h, BitVec.toNat_ofNat]
  omega

theorem selects_XY (op : Nat) (x y : Reg) (n : Nat) (h : op < 16) :
    formatXY op x y n &&& 0xF00F#16 = BitVec.ofNat 16 (op * 4096 + n % 16) := by
  apply BitVec.eq_of_toNat_eq
  simp only [and_F00F_toNat, formatXY_toNat op x y n h, BitVec.toNat_ofNat]
  omega

theorem selects_XYN (op : Nat) (x y : Reg) (n : Nat) (h : op < 16) :
    formatXY op x y n &&& 0xF000#16 = BitVec.ofNat 16 (op * 4096) := by
  apply BitVec.eq_of_toNat_eq
  simp only [and_F000_toNat, formatXY_toNat op x y n h, BitVec.toNat_ofNat]
  omega

/-! ## One lemma per instruction -/

theorem cls : Statement .cls := by
  refine ⟨by decide, by decide⟩

theorem ret : Statement .ret := by
  refine ⟨by decide, by decide⟩

theorem jp (nnn : Word) : Statement (.jp nnn) :=
  ⟨by simp [rowOf, Row.selectedBy, encode, selects_A], by simp [opcodeTable, rowSamples, rowOf]⟩

theorem call (nnn : Word) : Statement (.call nnn) :=
  ⟨by simp [rowOf, Row.selectedBy, encode, selects_A], by simp [opcodeTable, rowSamples, rowOf]⟩

theorem seImm (x : Reg) (kk : Byte) : Statement (.seImm x kk) :=
  ⟨by simp [rowOf, Row.selectedBy, encode, selects_XK], by simp [opcodeTable, rowSamples, rowOf]⟩

theorem sneImm (x : Reg) (kk : Byte) : Statement (.sneImm x kk) :=
  ⟨by simp [rowOf, Row.selectedBy, encode, selects_XK], by simp [opcodeTable, rowSamples, rowOf]⟩

theorem seReg (x y : Reg) : Statement (.seReg x y) :=
  ⟨by simp [rowOf, Row.selectedBy, encode, selects_XY], by simp [opcodeTable, rowSamples, rowOf]⟩

theorem ldImm (x : Reg) (kk : Byte) : Statement (.ldImm x kk) :=
  ⟨by simp [rowOf, Row.selectedBy, encode, selects_XK], by simp [opcodeTable, rowSamples, rowOf]⟩

theorem addImm (x : Reg) (kk : Byte) : Statement (.addImm x kk) :=
  ⟨by simp [rowOf, Row.selectedBy, encode, selects_XK], by simp [opcodeTable, rowSamples, rowOf]⟩

theorem ldReg (x y : Reg) : Statement (.ldReg x y) :=
  ⟨by simp [rowOf, Row.selectedBy, encode, selects_XY], by simp [opcodeTable, rowSamples, rowOf]⟩

theorem orReg (x y : Reg) : Statement (.orReg x y) :=
  ⟨by simp [rowOf, Row.selectedBy, encode, selects_XY], by simp [opcodeTable, rowSamples, rowOf]⟩

theorem andReg (x y : Reg) : Statement (.andReg x y) :=
  ⟨by simp [rowOf, Row.selectedBy, encode, selects_XY], by simp [opcodeTable, rowSamples, rowOf]⟩

theorem xorReg (x y : Reg) : Statement (.xorReg x y) :=
  ⟨by simp [rowOf, Row.selectedBy, encode, selects_XY], by simp [opcodeTable, rowSamples, rowOf]⟩

theorem addReg (x y : Reg) : Statement (.addReg x y) :=
  ⟨by simp [rowOf, Row.selectedBy, encode, selects_XY], by simp [opcodeTable, rowSamples, rowOf]⟩

theorem subReg (x y : Reg) : Statement (.subReg x y) :=
  ⟨by simp [rowOf, Row.selectedBy, encode, selects_XY], by simp [opcodeTable, rowSamples, rowOf]⟩

theorem shr (x y : Reg) : Statement (.shr x y) :=
  ⟨by simp [rowOf, Row.selectedBy, encode, selects_XY], by simp [opcodeTable, rowSamples, rowOf]⟩

theorem subnReg (x y : Reg) : Statement (.subnReg x y) :=
  ⟨by simp [rowOf, Row.selectedBy, encode, selects_XY], by simp [opcodeTable, rowSamples, rowOf]⟩

theorem shl (x y : Reg) : Statement (.shl x y) :=
  ⟨by simp [rowOf, Row.selectedBy, encode, selects_XY], by simp [opcodeTable, rowSamples, rowOf]⟩

theorem sneReg (x y : Reg) : Statement (.sneReg x y) :=
  ⟨by simp [rowOf, Row.selectedBy, encode, selects_XY], by simp [opcodeTable, rowSamples, rowOf]⟩

theorem ldI (nnn : Word) : Statement (.ldI nnn) :=
  ⟨by simp [rowOf, Row.selectedBy, encode, selects_A], by simp [opcodeTable, rowSamples, rowOf]⟩

theorem jpV0 (nnn : Word) : Statement (.jpV0 nnn) :=
  ⟨by simp [rowOf, Row.selectedBy, encode, selects_A], by simp [opcodeTable, rowSamples, rowOf]⟩

theorem rnd (x : Reg) (kk : Byte) : Statement (.rnd x kk) :=
  ⟨by simp [rowOf, Row.selectedBy, encode, selects_XK], by simp [opcodeTable, rowSamples, rowOf]⟩

theorem drw (x y : Reg) (n : Nat) : Statement (.drw x y n) :=
  ⟨by simp [rowOf, Row.selectedBy, encode, selects_XYN], by simp [opcodeTable, rowSamples, rowOf]⟩

theorem skp (x : Reg) : Statement (.skp x) :=
  ⟨by simp [rowOf, Row.selectedBy, encode, selects_X], by simp [opcodeTable, rowSamples, rowOf]⟩

theorem sknp (x : Reg) : Statement (.sknp x) :=
  ⟨by simp [rowOf, Row.selectedBy, encode, selects_X], by simp [opcodeTable, rowSamples, rowOf]⟩

theorem ldVxDt (x : Reg) : Statement (.ldVxDt x) :=
  ⟨by simp [rowOf, Row.selectedBy, encode, selects_X], by simp [opcodeTable, rowSamples, rowOf]⟩

theorem ldVxK (x : Reg) : Statement (.ldVxK x) :=
  ⟨by simp [rowOf, Row.selectedBy, encode, selects_X], by simp [opcodeTable, rowSamples, rowOf]⟩

theorem ldDtVx (x : Reg) : Statement (.ldDtVx x) :=
  ⟨by simp [rowOf, Row.selectedBy, encode, selects_X], by simp [opcodeTable, rowSamples, rowOf]⟩

theorem ldStVx (x : Reg) : Statement (.ldStVx x) :=
  ⟨by simp [rowOf, Row.selectedBy, encode, selects_X], by simp [opcodeTable, rowSamples, rowOf]⟩

theorem addI (x : Reg) : Statement (.addI x) :=
  ⟨by simp [rowOf, Row.selectedBy, encode, selects_X], by simp [opcodeTable, rowSamples, rowOf]⟩

theorem ldF (x : Reg) : Statement (.ldF x) :=
  ⟨by simp [rowOf, Row.selectedBy, encode, selects_X], by simp [opcodeTable, rowSamples, rowOf]⟩

theorem ldB (x : Reg) : Statement (.ldB x) :=
  ⟨by simp [rowOf, Row.selectedBy, encode, selects_X], by simp [opcodeTable, rowSamples, rowOf]⟩

theorem ldMemVx (x : Reg) : Statement (.ldMemVx x) :=
  ⟨by simp [rowOf, Row.selectedBy, encode, selects_X], by simp [opcodeTable, rowSamples, rowOf]⟩

theorem ldVxMem (x : Reg) : Statement (.ldVxMem x) :=
  ⟨by simp [rowOf, Row.selectedBy, encode, selects_X], by simp [opcodeTable, rowSamples, rowOf]⟩

end Sys2Proof.Laws.EncodeSelectsRow
end

