-- ==== Sys2Proof/Laws/Transition.lean ====
section
/-! SUPPORT. Everything a transition can do, said once: the four cases of a step (40_step_and_flow.md R80), and which
transition the agenda selects. -/

namespace Sys2Proof.Machine

open Sys2Proof.Safety

/-! ## The cases of a step -/

theorem stepTransition_faulted {s : State} {r : FaultRecord} (p : Option Ports) (h : s.fault = some r) :
    stepTransition p s = .next (s.returning (.faulted r)) := by simp [stepTransition, h]

theorem stepTransition_waiting {s : State} {x : Reg} (p : Option Ports) (hf : s.fault = none)
    (hl : s.latch = .waiting x) : stepTransition p s = .next (s.returning .idle) := by
  simp [stepTransition, hf, hl]

theorem stepTransition_unknown {s : State} {e : DecodeError} (p : Option Ports) (hf : s.fault = none)
    (hl : s.latch = .notWaiting) (hd : decodeWord s.fetchWord = .error e) :
    stepTransition p s = reportStep (.next (s.raise (.unknownInstruction s.fetchWord s.pc))) := by
  simp [stepTransition, hf, hl, executeOne, hd]

theorem stepTransition_executes {s : State} {i : Instr} (p : Option Ports) (hf : s.fault = none)
    (hl : s.latch = .notWaiting) (hd : decodeWord s.fetchWord = .ok i) :
    stepTransition p s = reportStep (exec i (s.sample p)) := by simp [stepTransition, hf, hl, executeOne, hd]

/-- If a step answers next, a fault was recorded, or the latch waits, or the word is unknown, or an instruction ran. -/
theorem stepTransition_cases {s t : State} {p : Option Ports} (h : stepTransition p s = .next t) :
    (∃ r, s.fault = some r ∧ t = s.returning (.faulted r)) ∨
    (∃ x, s.fault = none ∧ s.latch = .waiting x ∧ t = s.returning .idle) ∨
    (∃ e, s.fault = none ∧ s.latch = .notWaiting ∧ decodeWord s.fetchWord = .error e ∧
      t = (s.raise (.unknownInstruction s.fetchWord s.pc)).returning
        (.faulted (.unknownInstruction s.fetchWord s.pc))) ∨
    (∃ i u, s.fault = none ∧ s.latch = .notWaiting ∧ decodeWord s.fetchWord = .ok i ∧
      exec i (s.sample p) = .next u ∧ t = u.returning u.stepResult) := by
  cases hf : s.fault with
  | some r => exact .inl ⟨r, rfl, by simpa [stepTransition_faulted p hf, eq_comm] using h⟩
  | none =>
    refine .inr ?_
    cases hl : s.latch with
    | waiting x => exact .inl ⟨x, rfl, rfl, by simpa [stepTransition_waiting p hf hl, eq_comm] using h⟩
    | notWaiting =>
      refine .inr ?_
      cases hd : decodeWord s.fetchWord with
      | error e =>
        rw [stepTransition_unknown p hf hl hd] at h
        simp only [reportStep, Host.Outcome.next.injEq] at h
        exact .inl ⟨e, rfl, rfl, rfl, h.symm⟩
      | ok i =>
        rw [stepTransition_executes p hf hl hd] at h
        cases hx : exec i (s.sample p) with
        | next u =>
          rw [hx] at h
          simp only [reportStep, Host.Outcome.next.injEq] at h
          exact .inr ⟨i, u, rfl, rfl, rfl, hx, h.symm⟩
        | fault r => simp [hx, reportStep] at h
        | refused r => simp [hx, reportStep] at h

/-! ## Which transition the agenda selects -/

theorem step_of_stepAhead {s : State} {p : Option Ports} {rest : List HostAction}
    (h : stepAhead s = some (p, rest)) : step s = stepTransition p (s.withAgenda rest).running := by
  unfold stepAhead at h
  unfold step transition
  split at h <;> simp_all [State.withAgenda, State.running, State.setEnv]

theorem step_tick {s : State} {rest : List HostAction} (h : s.env.agenda = .tick :: rest) :
    step s = .next (((s.withAgenda rest).running.tick).returning (.tone s.tick.tone)) := by simp [step, transition, h]

theorem step_keyDown {s : State} {code : Nat} {rest : List HostAction} (h : s.env.agenda = .keyDown code :: rest) :
    step s = keyDownAction code (s.withAgenda rest).running := by simp [step, transition, h]

theorem step_snapshot {s : State} {rest : List HostAction} (h : s.env.agenda = .snapshot :: rest) :
    step s = .next (s.withAgenda rest).snapshotAction := by simp [step, transition, h]

theorem step_reset {s : State} {rest : List HostAction} (h : s.env.agenda = .reset :: rest) :
    step s = .next (s.withAgenda rest).resetAction := by simp [step, transition, h]

theorem step_loadProgram {s : State} {bytes : List Byte} {rest : List HostAction}
    (h : s.env.agenda = .loadProgram bytes :: rest) :
    step s = loadProgramAction bytes (s.withAgenda rest) := by simp [step, transition, h]

/-- Every step of the machine is one of the six transitions of the host's interface (60_exceptions.md R176). -/
theorem step_cases (s : State) :
    (∃ p rest, stepAhead s = some (p, rest) ∧ step s = stepTransition p (s.withAgenda rest).running) ∨
    (∃ rest, s.env.agenda = .tick :: rest ∧
      step s = .next (((s.withAgenda rest).running.tick).returning (.tone s.tick.tone))) ∨
    (∃ code rest, s.env.agenda = .keyDown code :: rest ∧ step s = keyDownAction code (s.withAgenda rest).running) ∨
    (∃ rest, s.env.agenda = .snapshot :: rest ∧ step s = .next (s.withAgenda rest).snapshotAction) ∨
    (∃ rest, s.env.agenda = .reset :: rest ∧ step s = .next (s.withAgenda rest).resetAction) ∨
    (∃ bytes rest, s.env.agenda = .loadProgram bytes :: rest ∧
      step s = loadProgramAction bytes (s.withAgenda rest)) := by
  cases ha : s.env.agenda with
  | nil => exact .inl ⟨none, [], by simp [stepAhead, ha], step_of_stepAhead (by simp [stepAhead, ha])⟩
  | cons a rest =>
    cases a with
    | step p => exact .inl ⟨some p, rest, by simp [stepAhead, ha], step_of_stepAhead (by simp [stepAhead, ha])⟩
    | tick => exact .inr (.inl ⟨rest, rfl, step_tick ha⟩)
    | keyDown code => exact .inr (.inr (.inl ⟨code, rest, rfl, step_keyDown ha⟩))
    | snapshot => exact .inr (.inr (.inr (.inl ⟨rest, rfl, step_snapshot ha⟩)))
    | reset => exact .inr (.inr (.inr (.inr (.inl ⟨rest, rfl, step_reset ha⟩))))
    | loadProgram bytes => exact .inr (.inr (.inr (.inr (.inr ⟨bytes, rest, rfl, step_loadProgram ha⟩))))

/-! ## Runs -/

/-- A run of one more step goes on from the state that step answers. -/
theorem run_succ (M : Host.Core) {s t : M.State} (k : Nat) (h : M.step s = .next t) :
    M.run (k + 1) s = M.run k t := by
  simp [Host.Core.run, h]

end Sys2Proof.Machine
end

