-- ==== Sys2Proof/Tests/Slice0.lean ====
section
/-! SUPPORT. Our own tests: ill-formed terms refused, decoding of words written out from the encodings of
30_encoding.md R66, one-step tests with the expected results of 95_test_vectors.md (the vector is named in each test's
comment), and witnesses that the hypotheses of the statements can be met. -/

namespace Sys2Proof.Tests

open Sys2Proof Sys2Proof.Machine Sys2Proof.Safety

/-! ## WellFormed refuses (30_encoding.md R63) -/

theorem test_wellFormed_jp_refuses_13_bits : (Instr.jp 0x1000).wellFormed = false := by decide
theorem test_wellFormed_call_refuses_13_bits : (Instr.call 0x1000).wellFormed = false := by decide
theorem test_wellFormed_ldI_refuses_16_bits : (Instr.ldI 0xFFFF).wellFormed = false := by decide
theorem test_wellFormed_jpV0_refuses_13_bits : (Instr.jpV0 0x1000).wellFormed = false := by decide
theorem test_wellFormed_drw_refuses_height_16 : (Instr.drw 0 0 16).wellFormed = false := by decide
theorem test_wellFormed_accepts_bounds :
    (Instr.jp 0xFFF).wellFormed = true ∧ (Instr.call 0xFFF).wellFormed = true ∧ (Instr.ldI 0xFFF).wellFormed = true ∧
    (Instr.jpV0 0xFFF).wellFormed = true ∧ (Instr.drw 15 15 15).wellFormed = true := by decide

/-! ## Decoding: one word per constructor, its fields put together by hand as R62 and R66 lay them out -/

theorem test_decode_cls : decodeWord 0x00E0 = .ok .cls := by decide
theorem test_decode_ret : decodeWord 0x00EE = .ok .ret := by decide
theorem test_decode_jp : decodeWord 0x1ABC = .ok (.jp 0xABC) := by decide
theorem test_decode_call : decodeWord 0x2300 = .ok (.call 0x300) := by decide
theorem test_decode_seImm : decodeWord 0x332A = .ok (.seImm 3 0x2A) := by decide
theorem test_decode_sneImm : decodeWord 0x432A = .ok (.sneImm 3 0x2A) := by decide
theorem test_decode_seReg : decodeWord 0x5120 = .ok (.seReg 1 2) := by decide
theorem test_decode_ldImm : decodeWord 0x600A = .ok (.ldImm 0 0x0A) := by decide
theorem test_decode_addImm : decodeWord 0x7220 = .ok (.addImm 2 0x20) := by decide
theorem test_decode_ldReg : decodeWord 0x8340 = .ok (.ldReg 3 4) := by decide
theorem test_decode_orReg : decodeWord 0x8121 = .ok (.orReg 1 2) := by decide
theorem test_decode_andReg : decodeWord 0x8122 = .ok (.andReg 1 2) := by decide
theorem test_decode_xorReg : decodeWord 0x8123 = .ok (.xorReg 1 2) := by decide
theorem test_decode_addReg : decodeWord 0x8124 = .ok (.addReg 1 2) := by decide
theorem test_decode_subReg : decodeWord 0x8125 = .ok (.subReg 1 2) := by decide
theorem test_decode_shr : decodeWord 0x81F6 = .ok (.shr 1 15) := by decide
theorem test_decode_subnReg : decodeWord 0x8127 = .ok (.subnReg 1 2) := by decide
theorem test_decode_shl : decodeWord 0x812E = .ok (.shl 1 2) := by decide
theorem test_decode_sneReg : decodeWord 0x9120 = .ok (.sneReg 1 2) := by decide
theorem test_decode_ldI : decodeWord 0xA2F0 = .ok (.ldI 0x2F0) := by decide
theorem test_decode_jpV0 : decodeWord 0xB2FF = .ok (.jpV0 0x2FF) := by decide
theorem test_decode_rnd : decodeWord 0xC30F = .ok (.rnd 3 0x0F) := by decide
theorem test_decode_drw : decodeWord 0xD125 = .ok (.drw 1 2 5) := by decide
theorem test_decode_skp : decodeWord 0xE29E = .ok (.skp 2) := by decide
theorem test_decode_sknp : decodeWord 0xE2A1 = .ok (.sknp 2) := by decide
theorem test_decode_ldVxDt : decodeWord 0xF507 = .ok (.ldVxDt 5) := by decide
theorem test_decode_ldVxK : decodeWord 0xF30A = .ok (.ldVxK 3) := by decide
theorem test_decode_ldDtVx : decodeWord 0xF515 = .ok (.ldDtVx 5) := by decide
theorem test_decode_ldStVx : decodeWord 0xF618 = .ok (.ldStVx 6) := by decide
theorem test_decode_addI : decodeWord 0xF21E = .ok (.addI 2) := by decide
theorem test_decode_ldF : decodeWord 0xF429 = .ok (.ldF 4) := by decide
theorem test_decode_ldB : decodeWord 0xF333 = .ok (.ldB 3) := by decide
theorem test_decode_ldMemVx : decodeWord 0xF155 = .ok (.ldMemVx 1) := by decide
theorem test_decode_ldVxMem : decodeWord 0xFF65 = .ok (.ldVxMem 15) := by decide

/-- 95_test_vectors.md section 2.6, one illegal word per family and the neighbours of the legal ones. -/
theorem test_decode_refuses : ([0x0000, 0x00E1, 0x0FFF, 0x5121, 0x8108, 0x810F, 0x912F, 0xE29F, 0xE2A0]
    ++ [0xF000, 0xF375, 0xF385, 0xFFFF] : List Word).all (fun w => decodeWord w == .error (.unknownWord w)) = true := by
  decide +kernel

/-- Bytes and the table's numbering: the high byte comes first; one byte alone is no instruction. -/
theorem test_decode_bytes : decodeBytes [0x60, 0x0A, 0x61] = .ok (.ldImm 0 10, [0x61]) ∧
    decodeBytes [0x60] = .error .truncated ∧ decodeTableWord 16 0xD015 = some (.drw 0 1 5) ∧
    decodeTableWord 16 0xFFFF = none := by decide

/-! ## One step

Each test starts in the state after reset with the word at pc, and steps once with the given keys and random byte. -/

/-- The state after reset with the instruction word `w` at pc, the host about to step with the given inputs. -/
def start (w : Word) (keys : BitVec 16 := 0) (rnd : Byte := 0) : State :=
  ({ State.reset with env := { Env.reset with agenda := [.step ⟨keys, rnd⟩] } }).placeWord w

/-- What a view of the next state shows, if the machine goes on. -/
def after {α : Type} (s : State) (view : State → α) : Option α :=
  match step s with
  | .next t => some (view t)
  | .fault _ => none
  | .refused _ => none

/-- What the host receives from a step. -/
def returned (s : State) : Option Returned := after s fun t => t.env.returned

/-! ### Flow (vectors F) -/

-- F1
theorem test_ret_pops_newest : after ((start 0x00EE).setStack [0x030A, 0x0204]) (fun t => (t.pc, t.stack)) =
    some (0x030A, [0x0204]) := by decide
-- F2, at pc = 0x200
theorem test_ret_underflow : after (start 0x00EE) (fun t => (t.pc, t.fault, t.env.returned)) =
    some (0x200, some (.stackUnderflow 0x200), .faulted (.stackUnderflow 0x200)) := by decide
-- F3, F4
theorem test_jp : after (start 0x1ABC) (fun t => t.pc) = some 0xABC := by decide
theorem test_jp_odd : after (start 0x1201) (fun t => t.pc) = some 0x201 := by decide
-- F6, at pc = 0x200
theorem test_call : after (start 0x2300) (fun t => (t.pc, t.stack)) = some (0x300, [0x202]) := by decide
-- F8, at pc = 0x200
theorem test_call_overflow :
    after { (start 0x2300).setStack [0x206, 0x204] with env := { (start 0x2300).env with stackDepth := some 2 } }
      (fun t => (t.pc, t.stack, t.fault)) = some (0x200, [0x206, 0x204], some (.stackOverflow 0x200)) := by decide
-- F10, F14 (16-bit wrap)
theorem test_seImm_equal : after ((start 0x332A).setReg 3 0x2A) (fun t => t.pc) = some 0x204 := by decide
theorem test_seImm_wraps : after (({ start 0 with pc := 0xFFFE }).placeWord 0x3000) (fun t => t.pc) =
    some 0x0002 := by decide
-- F15, F16
theorem test_sneImm_equal : after ((start 0x432A).setReg 3 0x2A) (fun t => t.pc) = some 0x202 := by decide
theorem test_sneImm_differs : after ((start 0x4300).setReg 3 0x2A) (fun t => t.pc) = some 0x204 := by decide
-- F17, F18
theorem test_seReg_equal : after (((start 0x5120).setReg 1 7).setReg 2 7) (fun t => t.pc) = some 0x204 := by decide
theorem test_seReg_differs : after (((start 0x5120).setReg 1 7).setReg 2 8) (fun t => t.pc) = some 0x202 := by decide
-- F21, F22
theorem test_sneReg_differs : after (((start 0x9120).setReg 1 7).setReg 2 8) (fun t => t.pc) = some 0x204 := by decide
theorem test_sneReg_equal : after (((start 0x9120).setReg 1 7).setReg 2 7) (fun t => t.pc) = some 0x202 := by decide
-- F26, F28
theorem test_jpV0_maximum : after ((start 0xBFFF).setReg 0 0xFF) (fun t => t.pc) = some 0x10FE := by decide
theorem test_jpV0_always_v0 : after (((start 0xB2FF).setReg 0 1).setReg 2 0x55) (fun t => t.pc) = some 0x300 := by
  decide
-- F31: the word at 0xFFF takes its low byte from address 0, the first glyph byte
theorem test_fetch_wraps :
    after { start 0 with pc := 0xFFF, mem := Memory.write [] 0xFFF 0x61 } (fun t => (t.reg 1, t.pc)) =
      some (0xF0, 0x1001) := by decide
-- F20
theorem test_unknown_word : after (start 0x5121) (fun t => (t.pc, t.fault, t.env.returned)) =
    some (0x200, some (.unknownInstruction 0x5121 0x200), .faulted (.unknownInstruction 0x5121 0x200)) := by decide

/-! ### Registers and arithmetic (vectors A) -/

-- A1, A2
theorem test_ldImm : after (start 0x600A) (fun t => (t.reg 0, t.pc)) = some (0x0A, 0x202) := by decide
theorem test_ldImm_x15 : after (start 0x6F7B) (fun t => t.reg 15) = some 0x7B := by decide
-- A3 (VF at 0x5A), A7
theorem test_addImm_wraps : after (((start 0x7220).setReg 2 0xF0).setReg 15 0x5A) (fun t => (t.reg 2, t.reg 15)) =
    some (0x10, 0x5A) := by decide
theorem test_addImm_x15 : after ((start 0x7F01).setReg 15 0xFF) (fun t => t.reg 15) = some 0 := by decide
-- A8
theorem test_ldReg : after ((start 0x8340).setReg 4 0x77) (fun t => (t.reg 3, t.reg 4)) = some (0x77, 0x77) := by decide
-- A11, A12, A13
theorem test_orReg : after ((((start 0x8121).setReg 1 0xF0).setReg 2 0x0F).setReg 15 0x5A)
    (fun t => (t.reg 1, t.reg 15)) = some (0xFF, 0x5A) := by decide
theorem test_andReg : after ((((start 0x8122).setReg 1 0xF3).setReg 2 0x3F).setReg 15 0x5A)
    (fun t => (t.reg 1, t.reg 15)) = some (0x33, 0x5A) := by decide
theorem test_xorReg : after ((((start 0x8123).setReg 1 0xFF).setReg 2 0x0F).setReg 15 0x5A)
    (fun t => (t.reg 1, t.reg 15)) = some (0xF0, 0x5A) := by decide
-- A16, A21
theorem test_addReg_sum_255 : after ((((start 0x8124).setReg 1 0xFF).setReg 2 0).setReg 15 1)
    (fun t => (t.reg 1, t.reg 15)) = some (0xFF, 0) := by decide
theorem test_addReg_x15 : after (((start 0x8F14).setReg 15 0xF0).setReg 1 0x20) (fun t => t.reg 15) = some 0x10 := by
  decide
-- A26, A31
theorem test_subReg_equal : after ((((start 0x8125).setReg 1 0x33).setReg 2 0x33).setReg 15 1)
    (fun t => (t.reg 1, t.reg 15)) = some (0, 0) := by decide
theorem test_subReg_y15 : after (((start 0x81F5).setReg 1 5).setReg 15 3) (fun t => (t.reg 1, t.reg 15)) =
    some (2, 1) := by decide
-- A37, A38
theorem test_shr_operand_is_vx : after (((start 0x8126).setReg 1 0xFF).setReg 2 0) (fun t => (t.reg 1, t.reg 15)) =
    some (0x7F, 1) := by decide
theorem test_shr_x15 : after ((start 0x8F06).setReg 15 7) (fun t => t.reg 15) = some 3 := by decide
-- A40, A43
theorem test_subnReg_borrow : after (((start 0x8127).setReg 1 0x0A).setReg 2 3) (fun t => (t.reg 1, t.reg 15)) =
    some (0xF9, 0) := by decide
theorem test_subnReg_x15 : after (((start 0x8F17).setReg 15 1).setReg 1 0x10) (fun t => t.reg 15) = some 0x0F := by
  decide
-- A44, A49
theorem test_shl_flag_is_1 : after ((start 0x810E).setReg 1 0x81) (fun t => (t.reg 1, t.reg 15)) = some (2, 1) := by
  decide
theorem test_shl_operand_is_vx : after (((start 0x812E).setReg 1 0x40).setReg 2 0xFF)
    (fun t => (t.reg 1, t.reg 15)) = some (0x80, 0) := by decide
-- A53, A54
theorem test_rnd : after (start 0xC30F 0 0xA7) (fun t => t.reg 3) = some 7 := by decide
theorem test_rnd_masked_out : after ((start 0xC300 0 0xFF).setReg 3 0x99) (fun t => t.reg 3) = some 0 := by decide

/-! ### Index register and memory (vectors M) -/

-- M3
theorem test_ldI : after (start 0xAFFF) (fun t => (t.i, t.pc)) = some (0x0FFF, 0x202) := by decide
-- M4, M5
theorem test_addI_wraps : after ((((start 0xF21E).setI 0x0FF0).setReg 2 0x20).setReg 15 0x5A)
    (fun t => (t.i, t.reg 15)) = some (0x0010, 0x5A) := by decide
-- M11, M13
theorem test_ldF_last_glyph : after ((start 0xF429).setReg 4 0x0F) (fun t => t.i) = some 0x4B := by decide
theorem test_ldF_whole_byte : after ((start 0xF429).setReg 4 0xFF) (fun t => t.i) = some 0x4FB := by decide
-- M15, M20
theorem test_ldB : after (((start 0xF333).setReg 3 0x9C).setI 0x300)
    (fun t => (t.mem.read 0x300, t.mem.read 0x301, t.mem.read 0x302, t.i)) = some (1, 5, 6, 0x300) := by decide
theorem test_ldB_wraps : after (((start 0xF333).setReg 3 0x7B).setI 0xFFE)
    (fun t => (t.mem.read 0xFFE, t.mem.read 0xFFF, t.mem.read 0)) = some (1, 2, 3) := by decide
-- M21, M23
theorem test_ldMemVx_inclusive : after ((((start 0xF155).setReg 0 0x11).setReg 1 0x22 |>.setReg 2 0x33).setI 0x400)
    (fun t => (t.mem.read 0x400, t.mem.read 0x401, t.mem.read 0x402, t.i)) = some (0x11, 0x22, 0, 0x400) := by decide
theorem test_ldMemVx_wraps : after ((((start 0xF255).setReg 0 1).setReg 1 2 |>.setReg 2 3).setI 0xFFF)
    (fun t => (t.mem.read 0xFFF, t.mem.read 0, t.mem.read 1)) = some (1, 2, 3) := by decide
-- M26, M28
theorem test_ldVxMem_x0 : after ((start 0xF065).setReg 1 0x77) (fun t => (t.reg 0, t.reg 1)) = some (0xF0, 0x77) := by
  decide
theorem test_ldVxMem_all : after (((start 0xFF65).setI 0x4B).setReg 15 1)
    (fun t => (t.reg 0, t.reg 1, t.reg 4, t.reg 15, t.i)) = some (0xF0, 0x80, 0x80, 0, 0x4B) := by decide

/-! ### Framebuffer (vectors D) -/

-- D1 (the cells (0,0) and (63,31))
theorem test_cls : after (((start 0x00E0).setFb (BitVec.twoPow 2048 0 ||| BitVec.twoPow 2048 2047)).setReg 15 1)
    (fun t => (t.fb, t.reg 15)) = some (0, 1) := by decide +kernel
-- D3: glyph 0 at (10,5) with cell (10,5) lit before
theorem test_drw_erases :
    after ((((start 0xD015).setReg 0 10).setReg 1 5 |>.setReg 15 0).setFb (BitVec.twoPow 2048 330))
      (fun t => (pixel t.fb 10 5, pixel t.fb 13 5, pixel t.fb 11 6, pixel t.fb 10 9, t.reg 15)) =
      some (false, true, false, true, 1) := by decide +kernel
-- D5: a 2 by 2 sprite from (63,31) wraps on both axes
theorem test_drw_wraps :
    after ((((start 0xD012).setReg 0 63).setReg 1 31 |>.setI 0x300).setMem
        (((start 0xD012).mem.writeBytes 0x300 [0xC0, 0xC0])))
      (fun t => (t.fb, t.reg 15)) =
      some (BitVec.twoPow 2048 2047 ||| BitVec.twoPow 2048 1984 ||| BitVec.twoPow 2048 63 ||| BitVec.twoPow 2048 0, 0)
    := by decide +kernel

/-! ### Keys and timers (vectors K) -/

-- K1, K4
theorem test_skp_down : after ((start 0xE29E 0x0020).setReg 2 5) (fun t => t.pc) = some 0x204 := by decide
theorem test_skp_above_15 : after ((start 0xE29E 0xFFFF).setReg 2 0x15) (fun t => t.pc) = some 0x202 := by decide
-- K7, K10
theorem test_sknp_down : after ((start 0xE2A1 0x0020).setReg 2 5) (fun t => t.pc) = some 0x202 := by decide
theorem test_sknp_above_15 : after ((start 0xE2A1 0xFFFF).setReg 2 0xFF) (fun t => t.pc) = some 0x204 := by decide
-- K13
theorem test_ldVxDt : after ((start 0xF507).setDt 0x3C) (fun t => (t.reg 5, t.dt)) = some (0x3C, 0x3C) := by decide
-- K15
theorem test_ldVxK : after (start 0xF30A) (fun t => (t.latch, t.pc, t.reg 3)) = some (.waiting 3, 0x202, 0) := by decide
-- K20, K22
theorem test_ldDtVx : after ((start 0xF515).setReg 5 0x3C) (fun t => (t.dt, t.st)) = some (0x3C, 0) := by decide
theorem test_ldStVx : after ((start 0xF618).setReg 6 3) (fun t => (t.st, t.dt, t.tone)) = some (3, 0, false) := by decide

/-! ### The host's transitions -/

/-- The state after reset, the host about to perform the actions. -/
def hostDoes (l : List HostAction) : State := { State.reset with env := { Env.reset with agenda := l } }

-- K17, K18, K19
theorem test_keyDown_resolves : after ((hostDoes [.keyDown 11]).setLatch (.waiting 3))
    (fun t => (t.reg 3, t.latch, t.pc)) = some (0x0B, .notWaiting, 0x200) := by decide
theorem test_keyDown_ignored : after (hostDoes [.keyDown 11]) (fun t => (t.v, t.latch)) =
    some (State.reset.v, .notWaiting) := by decide
-- K26, K27
theorem test_tick_st_1 : after (((hostDoes [.tick]).setDt 1).setSt 1) (fun t => (t.dt, t.st, t.tone)) =
    some (0, 0, false) := by decide
theorem test_tick_while_waiting : after ((((hostDoes [.tick]).setDt 0xFF).setSt 2).setLatch (.waiting 3))
    (fun t => (t.dt, t.st, t.tone, t.latch)) = some (0xFE, 1, true, .waiting 3) := by decide
-- E1 and 10_state.md R28: the last glyph byte and its neighbour after a load of two bytes at 0x200
theorem test_load : after (hostDoes [.loadProgram [0x00, 0xE0]])
    (fun t => (t.mem.read 79, t.mem.read 80, t.mem.read 0x1FF, t.mem.read 0x200, t.mem.read 0x201, t.mem.read 0x202)) =
    some (0x80, 0, 0, 0, 0xE0, 0) := by decide
-- F29, F30
theorem test_step_idle : returned ((start 0x600A).setLatch (.waiting 3)) = some .idle := by decide
theorem test_step_faulted : returned { start 0x600A with fault := some (.stackUnderflow 0x400) } =
    some (.faulted (.stackUnderflow 0x400)) := by decide

/-- withFetchWord: the very next step runs the word, from reset and over a waiting latch. -/
theorem test_withFetchWord :
    after (State.reset.withFetchWord 16 0x600A) (fun t => (t.reg 0, t.pc, t.env.returned)) = some (0x0A, 0x202, .done) ∧
    after (({ hostDoes [.tick, .step ⟨0, 0⟩] with fault := some (.stackUnderflow 0) }).setLatch (.waiting 3)
      |>.withFetchWord 16 0x600A) (fun t => (t.reg 0, t.pc)) = some (0x0A, 0x202) := by decide

/-! ## Witnesses: the hypotheses of the statements can be met

One theorem per statement with hypotheses, each clause at a boundary of its range. -/

/-- A step that the host gives inputs, and one with free inputs. -/
theorem witness_stepAhead (w : Word) : stepAhead (start w) = some (some ⟨0, 0⟩, []) ∧
    stepAhead (State.reset.placeWord w) = some (none, []) := by
  constructor <;> rfl

theorem witness_DecodeOfEncodeIsIdentity :
    (Instr.drw 15 15 15).wellFormed = true ∧ (Instr.jp 0x0FFF).wellFormed = true := by decide

theorem witness_EncodeOfDecodeIsIdentity :
    decodeWord 0x81F6 = .ok (.shr 1 15) ∧ encode (.shr 1 15) = 0x81F6 := by decide

theorem witness_LegalWords_both_ways :
    (∃ i, decodeWord 0x00EE = .ok i) ∧ ∀ r ∈ opcodeTable, r.selectedBy 0x00EF = false :=
  ⟨⟨.ret, rfl⟩, by decide⟩

theorem witness_NoWordSelectsTwoRows :
    rowOf .cls ∈ opcodeTable ∧ (rowOf .cls).selectedBy 0x00E0 = true := by decide

/-- With the host's inputs and no fault; with free inputs; and with a fault raised by the instruction. -/
theorem witness_StepRunsTheDecodedInstruction :
    (stepAhead (start 0xC30F) = some (some ⟨0, 0⟩, []) ∧ (start 0xC30F).fault = none ∧
      (start 0xC30F).latch = .notWaiting ∧ decodeWord (start 0xC30F).fetchWord = .ok (.rnd 3 0x0F)) ∧
    (stepAhead (State.reset.placeWord 0xC30F) = some (none, []) ∧ (State.reset.placeWord 0xC30F).fault = none ∧
      (State.reset.placeWord 0xC30F).latch = .notWaiting ∧
      decodeWord (State.reset.placeWord 0xC30F).fetchWord = .ok (.rnd 3 0x0F)) ∧
    (decodeWord (start 0x00EE).fetchWord = .ok .ret ∧
      exec .ret (start 0x00EE) = .next ((start 0x00EE).raise (.stackUnderflow 0x200))) :=
  ⟨⟨rfl, rfl, rfl, rfl⟩, ⟨rfl, rfl, rfl, rfl⟩, rfl, rfl⟩

theorem witness_UnknownWordRaisesUnknownInstruction :
    stepAhead (start 0x5121) = some (some ⟨0, 0⟩, []) ∧ (start 0x5121).fault = none ∧
    (start 0x5121).latch = .notWaiting ∧ ∀ r ∈ opcodeTable, r.selectedBy (start 0x5121).fetchWord = false :=
  ⟨rfl, rfl, rfl, by decide⟩

/-- A state whose fault is recorded, about to step. -/
def faulted : State := (start 0x600A).raise (.unknownInstruction 0xFFFF 0x200)

theorem witness_FaultedCoreStepsChangeNothing :
    stepAhead faulted = some (some ⟨0, 0⟩, []) ∧ faulted.fault = some (.unknownInstruction 0xFFFF 0x200) :=
  ⟨rfl, rfl⟩

theorem witness_WaitingCoreStepsAreIdle :
    stepAhead ((start 0).setLatch (.waiting 15)) = some (some ⟨0, 0⟩, []) ∧
    ((start 0).setLatch (.waiting 15)).fault = none ∧ ((start 0).setLatch (.waiting 15)).latch = .waiting 15 :=
  ⟨rfl, rfl, rfl⟩

/-- A tick of a faulted machine, and a reset of it. -/
theorem witness_RecordedFaultStaysUntilReset :
    (∃ t, step { faulted with env := { Env.reset with agenda := [.tick] } } = .next t ∧
      t.fault = some (.unknownInstruction 0xFFFF 0x200)) ∧
    (∃ t, step { faulted with env := { Env.reset with agenda := [.reset] } } = .next t ∧ t.fault = none) :=
  ⟨⟨_, rfl, rfl⟩, _, rfl, rfl⟩

theorem witness_EveryStepKeepsTheInvariant : Inv (start 0x2300) ∧ ∃ t, step (start 0x2300) = .next t :=
  ⟨⟨by decide, fun d h => by cases h; decide, by decide⟩, _, rfl⟩

/-- Room up to the last place of a stack of depth 1, and of an unbounded one. -/
theorem witness_CallPushesTheReturnAddress :
    (∀ d, ({ State.reset with env := { Env.reset with stackDepth := some 1 } } : State).env.stackDepth = some d →
      State.reset.stack.length < d) ∧
    (∀ d, ({ State.reset with env := { Env.reset with stackDepth := none } } : State).env.stackDepth = some d →
      State.reset.stack.length < d) :=
  ⟨fun d h => by cases h; decide, fun d h => by cases h⟩

/-- Sixteen entries of sixteen, and depth 0. -/
theorem witness_CallOnFullStackRaisesOverflow :
    ((State.reset.setStack (List.replicate 16 0x202)).env.stackDepth = some 16 ∧
      (State.reset.setStack (List.replicate 16 0x202)).stack.length = 16) ∧
    (({ State.reset with env := { Env.reset with stackDepth := some 0 } } : State).env.stackDepth = some 0 ∧
      State.reset.stack.length = 0) := by decide

theorem witness_ReturnPopsTheNewestAddress :
    (State.reset.setStack [0x030A, 0x0204]).stack = 0x030A :: [0x0204] := by decide

theorem witness_ReturnOnEmptyStackRaisesUnderflow : State.reset.stack = [] := by decide

theorem witness_ReturnComesBackAfterItsCall :
    ∃ t, exec (.call 0x300) State.reset = .next t ∧ t.fault = none ∧ (t.setReg 0 7).stack = t.stack :=
  ⟨_, rfl, rfl, rfl⟩

theorem witness_JumpWithOffsetAddsV0 : (Instr.jpV0 0x0FFF).wellFormed = true := by decide

theorem witness_OtherInstructionsGoToTheNextWord :
    assignsPc (.ldVxK 15) = false ∧ ∃ t, exec (.ldVxK 15) State.reset = .next t := ⟨rfl, _, rfl⟩

/-- The clause x ≠ 15 at its boundary: x = 14 has it, x = 15 has not. -/
theorem witness_flag_clauses : (14 : Reg) ≠ 15 ∧ ¬ (15 : Reg) ≠ 15 := by decide

theorem witness_FlagIsZeroOrOne :
    writesFlag (.shl 14 15) = true ∧ isDestination 15 (.shl 14 15) = false ∧
    ∃ t, exec (.shl 14 15) State.reset = .next t := ⟨rfl, rfl, _, rfl⟩

/-- A flag-writing instruction with another register, and VF under an instruction that writes no flag. -/
theorem witness_RegistersChangeOnlyAsTheAccessMatrixSays :
    (∃ t, exec (.addReg 1 2) State.reset = .next t ∧ isDestination 14 (.addReg 1 2) = false ∧ (14 : Reg) ≠ 15) ∧
    (∃ t, exec (.ldVxMem 14) State.reset = .next t ∧ isDestination 15 (.ldVxMem 14) = false ∧
      writesFlag (.ldVxMem 14) = false) :=
  ⟨⟨_, rfl, rfl, by decide⟩, _, rfl, rfl, rfl⟩

theorem witness_OnlyRandomAndKeySkipsReadTheInputs :
    (∀ x kk, Instr.ldVxK 0 ≠ .rnd x kk) ∧ (∀ x, Instr.ldVxK 0 ≠ .skp x) ∧ (∀ x, Instr.ldVxK 0 ≠ .sknp x) ∧
    ∃ t, exec (.ldVxK 0) State.reset = .next t :=
  ⟨nofun, nofun, nofun, _, rfl⟩

/-- The clause q ≤ x at its boundaries: q = x, and no q above 0 when x = 0. -/
theorem witness_register_range_clauses : (15 : Reg) ≤ 15 ∧ (0 : Reg) ≤ 0 ∧ ¬ (1 : Reg) ≤ 0 := by decide

theorem witness_OnlyStoresChangeMemory :
    (∃ t, exec (.ldVxMem 15) State.reset = .next t) ∧ (∀ x, Instr.ldVxMem 15 ≠ .ldB x) ∧
    (∀ x, Instr.ldVxMem 15 ≠ .ldMemVx x) := ⟨⟨_, rfl⟩, nofun, nofun⟩

/-- I at the next word, and the next word at the top of memory with I below it. -/
theorem witness_StoredWordIsFetchedNext :
    ((1 : Reg).val = (0 : Reg).val + 1 ∧ (1 : Reg) ≤ 1 ∧
      (State.reset.setI 0x202).ea (0 : Reg).val = ((State.reset.setI 0x202).pc.toNat + 2) % 4096) ∧
    ((15 : Reg).val = (14 : Reg).val + 1 ∧ (15 : Reg) ≤ 15 ∧
      ((State.reset.setI 0xFF1).setPc 0xFFD).ea (14 : Reg).val = (((State.reset.setI 0xFF1).setPc 0xFFD).pc.toNat + 2) % 4096)
    := by decide

theorem witness_CanonicalMemoryIsDeterminedByItsReads :
    (Memory.write [] 0x300 7).wf = true ∧ (Memory.write (Memory.write (Memory.write [] 0x301 1) 0x300 7) 0x301 0).wf = true ∧
    ∀ a, (Memory.write [] 0x300 7).read a =
      (Memory.write (Memory.write (Memory.write [] 0x301 1) 0x300 7) 0x301 0).read a :=
  ⟨by decide, by decide, fun _ => rfl⟩

/-- The last column and row. -/
theorem witness_ClearScreenClearsEveryCell : 63 < 64 ∧ 31 < 32 := by decide

/-- Glyph 0 drawn at (63, 31) from a framebuffer with the corner cell lit: the cell is covered, another is not, and the
drawing erases; from a clear framebuffer it does not. -/
theorem witness_DrawXorsTheSpriteAndReportsErasure :
    (Instr.drw 0 1 15).wellFormed = true ∧ (Instr.drw 0 1 0).wellFormed = true ∧
    SpriteCovers ((State.reset.setReg 0 63).setReg 1 31) 0 1 5 63 31 ∧
    ¬ SpriteCovers ((State.reset.setReg 0 63).setReg 1 31) 0 1 0 63 31 ∧
    SpriteErases (((State.reset.setReg 0 63).setReg 1 31).setFb (BitVec.twoPow 2048 2047)) 0 1 5 ∧
    ¬ SpriteErases ((State.reset.setReg 0 63).setReg 1 31) 0 1 0 := by
  refine ⟨by decide, by decide, ⟨0, 0, by decide⟩, ?_, ⟨63, 31, by decide, by decide, by decide +kernel, 0, 0, by decide⟩, ?_⟩
  · rintro ⟨_, _, h, _⟩
    exact absurd h (Nat.not_lt_zero _)
  · rintro ⟨_, _, _, _, _, _, _, h, _⟩
    exact absurd h (Nat.not_lt_zero _)

theorem witness_DrawingTwiceRestoresTheFramebuffer :
    (Instr.drw 0 1 5).wellFormed = true ∧ ∃ t, exec (.drw 0 1 5) State.reset = .next t ∧
      t.reg 0 = State.reset.reg 0 ∧ t.reg 1 = State.reset.reg 1 :=
  ⟨by decide, _, rfl, by decide +kernel, by decide +kernel⟩

theorem witness_OnlyClearAndDrawChangeTheFramebuffer :
    (∃ t, exec (.ldF 0) State.reset = .next t) ∧ Instr.ldF 0 ≠ .cls ∧ ∀ x y n, Instr.ldF 0 ≠ .drw x y n :=
  ⟨⟨_, rfl⟩, nofun, nofun⟩

theorem witness_TickDecrementsAndRecomputesTone : (hostDoes [.tick]).env.agenda = .tick :: [] := by decide

theorem witness_TicksCountDownToZero :
    (hostDoes [.tick, .tick, .tick, .snapshot]).env.agenda = List.replicate 3 .tick ++ [.snapshot] ∧ 0 < 3 := by decide

/-- The highest code, with the latch waiting and not waiting. -/
theorem witness_KeyDownResolvesTheLatch :
    (hostDoes [.keyDown 15]).env.agenda = .keyDown 15 :: [] ∧ 15 ≤ 15 ∧
    ((hostDoes [.keyDown 15]).setLatch (.waiting 15)).latch = .waiting 15 ∧
    (hostDoes [.keyDown 15]).latch = .notWaiting := by decide

theorem witness_KeyCodeAbove15IsRefused : (hostDoes [.keyDown 16]).env.agenda = .keyDown 16 :: [] ∧ 15 < 16 := by decide

/-- Two steps whose inputs differ, then the highest code. -/
theorem witness_KeyWaitLastsUntilTheNextKeyEvent :
    ((hostDoes [.step ⟨0, 0⟩, .step ⟨0xFFFF, 0x5A⟩, .keyDown 15]).setLatch (.waiting 15)).latch = .waiting 15 ∧
    15 ≤ 15 ∧ ((hostDoes [.step ⟨0, 0⟩, .step ⟨0xFFFF, 0x5A⟩, .keyDown 15]).setLatch (.waiting 15)).env.agenda =
      [⟨0, 0⟩, ⟨0xFFFF, 0x5A⟩].map .step ++ .keyDown 15 :: [] := by decide

/-- The longest image, its last byte, and the addresses just outside a shorter one. -/
theorem witness_LoadProgramPlacesTheImage :
    (hostDoes [.loadProgram (List.replicate 3584 0)]).env.agenda = .loadProgram (List.replicate 3584 0) :: [] ∧
    State.reset.env.phase = .booting ∧ (List.replicate 3584 (0 : Byte)).length ≤ 3584 ∧
    3583 < (List.replicate 3584 (0 : Byte)).length ∧ 0x1FF % 4096 < 0x200 ∧ 0x200 + 2 ≤ 0x202 % 4096 :=
  ⟨rfl, rfl, Nat.le_of_eq List.length_replicate, Nat.lt_of_lt_of_eq (by decide) List.length_replicate.symm, by decide,
    by decide⟩

theorem witness_OtherProgramLoadsAreRefused :
    3584 < (List.replicate 3585 (0 : Byte)).length ∧ (List.replicate 3584 (0 : Byte)).length ≤ 3584 ∧
    (State.running (hostDoes [.loadProgram []])).env.phase = .running := 
  ⟨Nat.lt_of_lt_of_eq (by decide) List.length_replicate.symm, Nat.le_of_eq List.length_replicate, rfl⟩

/-- From a state that differs from reset; the memory clauses at 79, 80 and 4095. -/
theorem witness_ResetGivesTheResetValues :
    ((hostDoes [.reset]).setPc 0x300).env.agenda = .reset :: [] ∧ 79 < 80 ∧ (80 ≤ 80 ∧ 80 < 4096) ∧
    (80 ≤ 4095 ∧ 4095 < 4096) := ⟨rfl, by decide, by decide, by decide⟩

theorem witness_SnapshotReturnsTheFramebuffer : (hostDoes [.snapshot]).env.agenda = .snapshot :: [] := by decide

/-- A jump to itself at 0x200. -/
theorem witness_EndedRunStaysEnded :
    EndedNormally (start 0x1200) ∧ stepAhead (start 0x1200) = some (some ⟨0, 0⟩, []) :=
  ⟨⟨rfl, rfl, by decide, by decide⟩, rfl⟩

end Sys2Proof.Tests
end

section
/-! Fetching (20_memory.md R43): the two bytes of a composed word, and the order in which the fetch composes them. -/

namespace Sys2Proof.Machine

/-- The byte at the lower address is bits 15:8 of the word (R43). -/
@[simp] theorem highByte_composeWord (hi lo : Byte) : highByte (composeWord hi lo) = hi :=
  BitVec.extractLsb'_append_eq_left

/-- The byte at the higher address is bits 7:0 of the word (R43). -/
@[simp] theorem lowByte_composeWord (hi lo : Byte) : lowByte (composeWord hi lo) = lo :=
  BitVec.extractLsb'_append_eq_right

/-- Settles O6: the fetched word is composed of the byte at pc and the byte at pc + 1, in this order. -/
theorem fetchIsBigEndian : Obligations.FetchIsBigEndian := fun s =>
  ⟨highByte_composeWord (s.mem.read s.pc.toNat) (s.mem.read (s.pc.toNat + 1)),
    lowByte_composeWord (s.mem.read s.pc.toNat) (s.mem.read (s.pc.toNat + 1))⟩

end Sys2Proof.Machine
end

section
/-! Control transfer (40_step_and_flow.md R84, R86 to R89): the instructions that do nothing but move pc. -/

namespace Sys2Proof.Machine

open Sys2Proof.Safety

/-! ### Moving pc -/

/-- An assignment to pc meets the empty frame. -/
theorem State.setPc_frame (s : State) (a : Word) : Frame {} s (s.setPc a) where
  regs _ _ := rfl
  mem _ _ := rfl
  i _ := rfl
  dt _ := rfl
  st _ := rfl
  stack _ := rfl
  fb _ := rfl
  latch _ := rfl
  tone := rfl
  fault := rfl
  env := rfl

/-- A skip, taken or not, meets the empty frame: it only assigns pc. -/
theorem State.skipIf_frame (s : State) (c : Bool) : Frame {} s (s.skipIf c) :=
  s.skipIf_eq c ▸ s.setPc_frame _

/-- Where a skip on a condition goes. -/
theorem State.skipIf_decide_pc (s : State) (p : Prop) [Decidable p] :
    (s.skipIf (decide p)).pc = if p then s.pc + 4 else s.pc + 2 := by
  rw [State.skipIf_eq, State.setPc_pc]
  simp only [decide_eq_true_eq]

/-- A skip on the negated condition goes to the two addresses the other way round. -/
theorem State.skipIf_decide_not_pc (s : State) (p : Prop) [Decidable p] :
    (s.skipIf (decide ¬p)).pc = if p then s.pc + 2 else s.pc + 4 := by
  rw [State.skipIf_decide_pc, ite_not]

/-! ### What the instructions answer -/

/-- JP nnn (R84). -/
@[simp] theorem exec_jp (nnn : Word) (s : State) : exec (.jp nnn) s = .next (s.setPc nnn) := rfl

/-- SE Vx,kk (R86). -/
@[simp] theorem exec_seImm (x : Reg) (kk : Byte) (s : State) :
    exec (.seImm x kk) s = .next (s.skipIf (decide (s.reg x = kk))) := rfl

/-- SNE Vx,kk (R87). -/
@[simp] theorem exec_sneImm (x : Reg) (kk : Byte) (s : State) :
    exec (.sneImm x kk) s = .next (s.skipIf (decide ¬s.reg x = kk)) := rfl

/-- SE Vx,Vy (R88). -/
@[simp] theorem exec_seReg (x y : Reg) (s : State) :
    exec (.seReg x y) s = .next (s.skipIf (decide (s.reg x = s.reg y))) := rfl

/-- SNE Vx,Vy (R89). -/
@[simp] theorem exec_sneReg (x y : Reg) (s : State) :
    exec (.sneReg x y) s = .next (s.skipIf (decide ¬s.reg x = s.reg y)) := rfl

/-! ### The obligations -/

/-- Settles O15: a jump is one assignment to pc. -/
theorem jumpGoesToItsAddress : Obligations.JumpGoesToItsAddress := fun s nnn =>
  ⟨s.setPc nnn, exec_jp nnn s, s.setPc_pc nnn, s.setPc_frame nnn⟩

/-- Settles O21: SE skips on equality of V[x] with kk, SNE on its negation. -/
theorem skipsOnImmediates : Obligations.SkipsOnImmediates := fun s x kk =>
  ⟨⟨_, exec_seImm x kk s, s.skipIf_decide_pc _, s.skipIf_frame _⟩,
    ⟨_, exec_sneImm x kk s, s.skipIf_decide_not_pc _, s.skipIf_frame _⟩⟩

/-- Settles O22: SE skips on equality of V[x] with V[y], SNE on its negation. -/
theorem skipsOnRegisters : Obligations.SkipsOnRegisters := fun s x y =>
  ⟨⟨_, exec_seReg x y s, s.skipIf_decide_pc _, s.skipIf_frame _⟩,
    ⟨_, exec_sneReg x y s, s.skipIf_decide_not_pc _, s.skipIf_frame _⟩⟩

end Sys2Proof.Machine
end

section
/-! Frames are kept by the single updates of the state: an assignment to pc, and a write to a register they list. -/

namespace Sys2Proof.Safety

open Sys2Proof.Machine

variable {w : Writes} {s t : State}

/-- A state meets every frame with itself. -/
theorem Frame.refl (w : Writes) (s : State) : Frame w s s where
  regs _ _ := rfl
  mem _ _ := rfl
  i _ := rfl
  dt _ := rfl
  st _ := rfl
  stack _ := rfl
  fb _ := rfl
  latch _ := rfl
  tone := rfl
  fault := rfl
  env := rfl

/-- No frame speaks of pc, so the end of an instruction (40_step_and_flow.md R82) keeps it. -/
theorem Frame.advance (h : Frame w s t) : Frame w s t.advance := { h with }

/-- A register that a frame lists may be written. -/
theorem Frame.setReg (h : Frame w s t) {x : Reg} (hx : x ∈ w.regs) (b : Byte) : Frame w s (t.setReg x b) :=
  { h with
    regs := fun q hq => by
      have hne : q ≠ x := fun e => hq (e ▸ hx)
      rw [State.setReg_reg, if_neg hne, h.regs q hq] }

end Sys2Proof.Safety
end

section
/-! Registers and arithmetic (41_alu.md R102 to R107): the instructions that write one register and no flag. -/

namespace Sys2Proof.Machine

open Sys2Proof.Safety

/-- The sum of R103 and R108 as a number. -/
theorem sumByte_toNat (a b : Byte) : (sumByte a b).toNat = (a.toNat + b.toNat) % 256 :=
  BitVec.toNat_ofNat (exactSum a b) 8

/-! ### What the instructions answer -/

/-- LD Vx,kk (R102). -/
@[simp] theorem exec_ldImm (x : Reg) (kk : Byte) (s : State) :
    exec (.ldImm x kk) s = .next (s.setReg x kk).advance := rfl

/-- ADD Vx,kk (R103). -/
@[simp] theorem exec_addImm (x : Reg) (kk : Byte) (s : State) :
    exec (.addImm x kk) s = .next (s.setReg x (sumByte (s.reg x) kk)).advance := rfl

/-- LD Vx,Vy (R104). -/
@[simp] theorem exec_ldReg (x y : Reg) (s : State) :
    exec (.ldReg x y) s = .next (s.setReg x (s.reg y)).advance := rfl

/-- OR Vx,Vy (R105). -/
@[simp] theorem exec_orReg (x y : Reg) (s : State) :
    exec (.orReg x y) s = .next (s.setReg x (s.reg x ||| s.reg y)).advance := rfl

/-- AND Vx,Vy (R106). -/
@[simp] theorem exec_andReg (x y : Reg) (s : State) :
    exec (.andReg x y) s = .next (s.setReg x (s.reg x &&& s.reg y)).advance := rfl

/-- XOR Vx,Vy (R107). -/
@[simp] theorem exec_xorReg (x y : Reg) (s : State) :
    exec (.xorReg x y) s = .next (s.setReg x (s.reg x ^^^ s.reg y)).advance := rfl

/-! ### Writing one register -/

/-- An instruction that answers with one register write and the next word leaves everything else unchanged, VF
included unless it is the destination. -/
theorem exec_next_of_eq_setReg {i : Instr} {s : State} {x : Reg} {b : Byte}
    (h : exec i s = .next (s.setReg x b).advance) :
    ∃ t, exec i s = .next t ∧ t.reg x = b ∧ t.pc = s.pc + 2 ∧ Frame { regs := [x] } s t :=
  ⟨_, h, by simp, by simp, ((Frame.refl _ s).setReg (List.mem_singleton_self x) b).advance⟩

/-! ### The obligations -/

/-- Settles O25: each load is one register write, of kk or of the old V[y]. -/
theorem registerLoads : Obligations.RegisterLoads := fun s x y kk =>
  ⟨exec_next_of_eq_setReg (exec_ldImm x kk s), exec_next_of_eq_setReg (exec_ldReg x y s)⟩

/-- Settles O26: one register write of the sum modulo 256. -/
theorem addImmediateWrapsWithoutFlag : Obligations.AddImmediateWrapsWithoutFlag := fun s x kk =>
  have ⟨t, hexec, hreg, hpc, hframe⟩ := exec_next_of_eq_setReg (exec_addImm x kk s)
  ⟨t, hexec, hreg ▸ sumByte_toNat (s.reg x) kk, hpc, hframe⟩

/-- Settles O27: each of OR, AND and XOR is one register write. -/
theorem logicWritesOnlyItsDestination : Obligations.LogicWritesOnlyItsDestination := fun s x y =>
  ⟨exec_next_of_eq_setReg (exec_orReg x y s), exec_next_of_eq_setReg (exec_andReg x y s),
    exec_next_of_eq_setReg (exec_xorReg x y s)⟩

end Sys2Proof.Machine
end

section
/-! Frames are kept by an assignment to I where they list I, by a store through I to addresses they list, and by a
load through I into registers they list. -/

namespace Sys2Proof.Safety

open Sys2Proof.Machine

variable {w : Writes} {s t : State}

/-- A frame that lists I allows an assignment to it. -/
theorem Frame.setI (h : Frame w s t) (hi : w.i = true) (a : Word) : Frame w s (t.setI a) :=
  { h with i := fun hf => Bool.noConfusion (hf.symm.trans hi) }

/-- A frame that lists the addresses of a store through I allows the store. -/
theorem Frame.storeAtI (h : Frame w s t) {bytes : List Byte} (hw : ∀ k < bytes.length, t.ea k ∈ w.stores) :
    Frame w s (t.storeAtI bytes) :=
  { h with
    mem := fun a ha => by
      have hout : ∀ k < bytes.length, a % 4096 ≠ (t.i.toNat + k) % 4096 := fun k hk e => ha (e ▸ hw k hk)
      exact (Memory.read_writeBytes_outside t.mem t.i.toNat a bytes hout).trans (h.mem a ha) }

/-- A frame that lists the first `n` registers allows a load of them through I. -/
theorem Frame.loadAtI (h : Frame w s t) {n : Nat} (hw : ∀ q : Reg, q.val < n → q ∈ w.regs) :
    Frame w s (t.loadAtI n) :=
  { h with
    regs := fun q hq => by
      have hge : ¬q.val < n := fun hlt => hq (hw q hlt)
      rw [State.loadAtI_reg, if_neg hge, h.regs q hq] }

end Sys2Proof.Safety
end

section
/-! Index register and memory (42_index_memory.md R120, R122 to R125): the instructions that set I or transfer bytes
through it. -/

namespace Sys2Proof.Machine

open Sys2Proof.Safety

/-! ### Bytes at the effective addresses (R126) -/

/-- Reading at `EA(k)` is reading through I at offset `k`: reading wraps as `EA` does. -/
theorem State.read_ea (s : State) (k : Nat) : s.mem.read (s.ea k) = s.readAtI k :=
  Memory.read_mod s.mem (s.i.toNat + k)

/-- After a store through I of no more bytes than memory has, `EA(k)` holds byte `k`. -/
theorem State.storeAtI_read_ea (s : State) {bytes : List Byte} (hlen : bytes.length ≤ 4096) {k : Nat}
    (hk : k < bytes.length) : (s.storeAtI bytes).mem.read (s.ea k) = bytes[k] :=
  ((s.storeAtI bytes).read_ea k).trans (Memory.read_writeBytes_inside s.mem s.i.toNat k bytes hk hlen)

/-- The addresses of a store of `n` bytes through I are `EA(k)` for `k < n`. -/
theorem ea_mem_storedAddresses (s : State) {k n : Nat} (hk : k < n) : s.ea k ∈ storedAddresses s n :=
  List.mem_map_of_mem (List.mem_range.mpr hk)

/-! ### Operands as numbers -/

/-- The glyph address of R122 does not wrap: 255 times 5 is below 65536. -/
theorem zext16_mul_five_toNat (b : Byte) : (zext16 b * 5).toNat = b.toNat * 5 := by
  have := b.isLt
  have hlt : b.toNat * 5 < 2 ^ 16 := by omega
  rw [BitVec.toNat_mul, zext16_toNat]
  exact Nat.mod_eq_of_lt hlt

/-- The digits of R123 as numbers: each fits in its byte. -/
theorem decimalDigits_toNat (v : Byte) :
    (decimalDigits v)[0].toNat = v.toNat / 100 ∧ (decimalDigits v)[1].toNat = v.toNat / 10 % 10 ∧
      (decimalDigits v)[2].toNat = v.toNat % 10 := by
  have := v.isLt
  simp only [decimalDigits, List.getElem_cons_zero, List.getElem_cons_succ, BitVec.toNat_ofNat]
  omega

/-! ### What the instructions answer -/

/-- LD I,nnn (R120). -/
@[simp] theorem exec_ldI (nnn : Word) (s : State) : exec (.ldI nnn) s = .next (s.setI nnn).advance := rfl

/-- LD F,Vx (R122). -/
@[simp] theorem exec_ldF (x : Reg) (s : State) :
    exec (.ldF x) s = .next (s.setI (zext16 (s.reg x) * 5)).advance := rfl

/-- LD B,Vx (R123). -/
@[simp] theorem exec_ldB (x : Reg) (s : State) :
    exec (.ldB x) s = .next (s.storeAtI (decimalDigits (s.reg x))).advance := rfl

/-- LD [I],Vx (R124). -/
@[simp] theorem exec_ldMemVx (x : Reg) (s : State) :
    exec (.ldMemVx x) s = .next (s.storeAtI (regRange s x)).advance := rfl

/-- LD Vx,[I] (R125). -/
@[simp] theorem exec_ldVxMem (x : Reg) (s : State) :
    exec (.ldVxMem x) s = .next (s.loadAtI (x.val + 1)).advance := rfl

/-! ### Setting I, and storing through it -/

/-- An instruction that answers with one assignment to I and the next word leaves everything else unchanged. -/
theorem exec_next_of_eq_setI {i : Instr} {s : State} {a : Word} (h : exec i s = .next (s.setI a).advance) :
    ∃ t, exec i s = .next t ∧ t.i = a ∧ t.pc = s.pc + 2 ∧ Frame { i := true } s t :=
  ⟨_, h, rfl, rfl, ((Frame.refl _ s).setI rfl a).advance⟩

/-- An instruction that answers with one store through I and the next word puts byte `k` at `EA(k)` and leaves
everything else unchanged. -/
theorem exec_next_of_eq_storeAtI {i : Instr} {s : State} {bytes : List Byte}
    (h : exec i s = .next (s.storeAtI bytes).advance) (hlen : bytes.length ≤ 4096) :
    ∃ t, exec i s = .next t ∧ (∀ k (hk : k < bytes.length), t.mem.read (s.ea k) = bytes[k]) ∧
      t.pc = s.pc + 2 ∧ Frame { stores := storedAddresses s bytes.length } s t :=
  ⟨_, h, fun _ => s.storeAtI_read_ea hlen, rfl,
    ((Frame.refl _ s).storeAtI fun _ => ea_mem_storedAddresses s).advance⟩

/-! ### The obligations -/

/-- Settles O37: one store through I of the three digits. -/
theorem decimalStoreWritesThreeDigits : Obligations.DecimalStoreWritesThreeDigits := fun s x => by
  obtain ⟨t, hexec, hread, hpc, hframe⟩ := exec_next_of_eq_storeAtI (exec_ldB x s) (by simp)
  obtain ⟨hhundreds, htens, hones⟩ := decimalDigits_toNat (s.reg x)
  refine ⟨t, hexec, ?_, ?_, ?_, hpc, hframe⟩
  · rw [hread 0 (by simp), hhundreds]
  · rw [hread 1 (by simp), htens]
  · rw [hread 2 (by simp), hones]

/-- Settles O38: one store through I of the range V[0..x]. -/
theorem registerStoreWritesTheRange : Obligations.RegisterStoreWritesTheRange := fun s x => by
  have hlen : (regRange s x).length ≤ 4096 := by rw [regRange_length]; omega
  obtain ⟨t, hexec, hread, hpc, hframe⟩ := exec_next_of_eq_storeAtI (exec_ldMemVx x s) hlen
  rw [regRange_length] at hframe
  refine ⟨t, hexec, fun q hq => ?_, hpc, hframe⟩
  have hlt : q.val < (regRange s x).length := by simpa using Nat.lt_succ_of_le hq
  rw [hread q.val hlt, regRange_getElem]

/-- Settles O39: one load through I of the registers below x + 1. -/
theorem registerLoadReadsTheRange : Obligations.RegisterLoadReadsTheRange := fun s x => by
  refine ⟨_, exec_ldVxMem x s, fun q hq => ?_, rfl, ((Frame.refl _ s).loadAtI fun q hq => ?_).advance⟩
  · have hlt : q.val < x.val + 1 := Nat.lt_succ_of_le hq
    rw [State.advance_eq, State.setPc_reg, State.loadAtI_reg, if_pos hlt, State.read_ea]
  · have hle : q ≤ x := Nat.le_of_lt_succ hq
    simpa using hle

/-- Settles O35: each is one assignment to I, of nnn or of five times the whole byte V[x]. -/
theorem indexLoads : Obligations.IndexLoads := fun s x nnn =>
  have ⟨t, hexec, hi, hpc, hframe⟩ := exec_next_of_eq_setI (exec_ldF x s)
  ⟨exec_next_of_eq_setI (exec_ldI nnn s), t, hexec, hi ▸ zext16_mul_five_toNat (s.reg x), hpc, hframe⟩

end Sys2Proof.Machine
end

section
/-! Frames are kept by a new framebuffer where they list it. -/

namespace Sys2Proof.Safety

open Sys2Proof.Machine

variable {w : Writes} {s t : State}

/-- A frame that lists the framebuffer allows an assignment to it. -/
theorem Frame.setFb (h : Frame w s t) (hfb : w.fb = true) (g : FrameBuffer) : Frame w s (t.setFb g) :=
  { h with fb := fun hf => Bool.noConfusion (hf.symm.trans hfb) }

end Sys2Proof.Safety
end

section
/-! Clearing the screen (43_display.md R130). -/

namespace Sys2Proof.Machine

open Sys2Proof.Safety

/-- Every cell of the zero framebuffer is 0. -/
@[simp] theorem pixel_zero (px py : Nat) : pixel 0 px py = false := BitVec.getLsbD_zero

/-- CLS (R130). -/
@[simp] theorem exec_cls (s : State) : exec .cls s = .next (s.setFb 0).advance := rfl

/-- Settles O44: CLS is one assignment of the zero framebuffer. -/
theorem clearScreenClearsEveryCell : Obligations.ClearScreenClearsEveryCell := fun s =>
  ⟨(s.setFb 0).advance, exec_cls s, fun px py _ _ => pixel_zero px py, rfl,
    ((Frame.refl _ s).setFb rfl 0).advance⟩

end Sys2Proof.Machine
end

section
/-! Frames are kept by an assignment to a timer where they list it. -/

namespace Sys2Proof.Safety

open Sys2Proof.Machine

variable {w : Writes} {s t : State}

/-- A frame that lists DT allows an assignment to it. -/
theorem Frame.setDt (h : Frame w s t) (hdt : w.dt = true) (b : Byte) : Frame w s (t.setDt b) :=
  { h with dt := fun hf => Bool.noConfusion (hf.symm.trans hdt) }

/-- A frame that lists ST allows an assignment to it. TONE, which no frame lists, stays (44_keys_timers.md R146). -/
theorem Frame.setSt (h : Frame w s t) (hst : w.st = true) (b : Byte) : Frame w s (t.setSt b) :=
  { h with st := fun hf => Bool.noConfusion (hf.symm.trans hst) }

end Sys2Proof.Safety
end

section
/-! The timers (44_keys_timers.md R144 to R146): the instructions that move a byte between V[x] and a timer. -/

namespace Sys2Proof.Machine

open Sys2Proof.Safety

/-! ### What the instructions answer -/

/-- LD Vx,DT (R144). -/
@[simp] theorem exec_ldVxDt (x : Reg) (s : State) : exec (.ldVxDt x) s = .next (s.setReg x s.dt).advance := rfl

/-- LD DT,Vx (R145). -/
@[simp] theorem exec_ldDtVx (x : Reg) (s : State) : exec (.ldDtVx x) s = .next (s.setDt (s.reg x)).advance := rfl

/-- LD ST,Vx (R146). -/
@[simp] theorem exec_ldStVx (x : Reg) (s : State) : exec (.ldStVx x) s = .next (s.setSt (s.reg x)).advance := rfl

/-! ### The obligation -/

/-- Settles O49: LD Vx,DT is one register write, and the other two are one assignment each of the whole byte V[x] to
their timer. -/
theorem timerTransfers : Obligations.TimerTransfers := fun s x =>
  ⟨exec_next_of_eq_setReg (exec_ldVxDt x s),
    ⟨_, exec_ldDtVx x s, rfl, rfl, ((Frame.refl _ s).setDt rfl (s.reg x)).advance⟩,
    ⟨_, exec_ldStVx x s, rfl, rfl, ((Frame.refl _ s).setSt rfl (s.reg x)).advance⟩⟩

end Sys2Proof.Machine
end

section
/-! The fields of the words that the encoder makes (30_encoding.md R62, R66), and the words made of the fields of a
word. -/

namespace Sys2Proof

variable {op n : Nat} {x y : Reg} {kk : Byte} {nnn w : Word}

/-! ### The fields of an encoded word -/

@[simp] theorem opField_formatA (h : op < 16) : (opField (formatA op nnn)).toNat = op := by
  rw [opField_toNat, formatA_toNat _ _ h]
  omega

@[simp] theorem opField_formatXK (h : op < 16) : (opField (formatXK op x kk)).toNat = op := by
  have := kk.isLt
  rw [opField_toNat, formatXK_toNat _ _ _ h]
  omega

@[simp] theorem opField_formatXY (h : op < 16) : (opField (formatXY op x y n)).toNat = op := by
  rw [opField_toNat, formatXY_toNat _ _ _ _ h]
  omega

theorem nnnField_formatA (h : op < 16) (hn : nnn.toNat < 4096) : nnnField (formatA op nnn) = nnn := by
  apply BitVec.eq_of_toNat_eq
  rw [nnnField_toNat, formatA_toNat _ _ h]
  omega

@[simp] theorem xField_formatXK (h : op < 16) : xField (formatXK op x kk) = x := by
  have := kk.isLt
  apply Fin.ext
  rw [xField_val, formatXK_toNat _ _ _ h]
  omega

@[simp] theorem kkField_formatXK (h : op < 16) : kkField (formatXK op x kk) = kk := by
  have := kk.isLt
  apply BitVec.eq_of_toNat_eq
  rw [kkField_toNat, formatXK_toNat _ _ _ h]
  omega

@[simp] theorem xField_formatXY (h : op < 16) : xField (formatXY op x y n) = x := by
  apply Fin.ext
  rw [xField_val, formatXY_toNat _ _ _ _ h]
  omega

@[simp] theorem yField_formatXY (h : op < 16) : yField (formatXY op x y n) = y := by
  apply Fin.ext
  rw [yField_val, formatXY_toNat _ _ _ _ h]
  omega

@[simp] theorem nField_formatXY (h : op < 16) : nField (formatXY op x y n) = n % 16 := by
  rw [nField_eq, formatXY_toNat _ _ _ _ h]
  omega

/-! ### The word of a word's fields -/

/-- A word is `{op, nnn}` of its fields. -/
theorem formatA_fields (hop : (opField w).toNat = op) : formatA op (nnnField w) = w := by
  have := w.isLt
  rw [opField_toNat] at hop
  apply BitVec.eq_of_toNat_eq
  rw [formatA_toNat _ _ (by omega), nnnField_toNat]
  omega

/-- A word is `{op, x, kk}` of its fields. -/
theorem formatXK_fields (hop : (opField w).toNat = op) : formatXK op (xField w) (kkField w) = w := by
  have := w.isLt
  rw [opField_toNat] at hop
  apply BitVec.eq_of_toNat_eq
  rw [formatXK_toNat _ _ _ (by omega), xField_val, kkField_toNat]
  omega

/-- A word is `{op, x, y, n}` of its fields. -/
theorem formatXY_fields (hop : (opField w).toNat = op) (hn : nField w = n) :
    formatXY op (xField w) (yField w) n = w := by
  have := w.isLt
  rw [opField_toNat] at hop
  rw [nField_eq] at hn
  apply BitVec.eq_of_toNat_eq
  rw [formatXY_toNat _ _ _ _ (by omega), xField_val, yField_val]
  omega

/-- A word of format X is `{op, x, sub}` when its low byte is the sub-opcode. -/
theorem formatX_fields (hop : (opField w).toNat = op) (hkk : (kkField w).toNat = kk.toNat) :
    formatXK op (xField w) kk = w := by
  rw [← BitVec.eq_of_toNat_eq hkk]
  exact formatXK_fields hop

end Sys2Proof
end

section
/-! Decoding and encoding are inverse to each other (30_encoding.md section 4). -/

namespace Sys2Proof

/-! ### Decoding an encoded instruction -/

/-- Every well-formed instruction comes back from its word, one argument per format of 30_encoding.md R62. -/
theorem decodeWord_encode {i : Instr} (h : i.wellFormed = true) : decodeWord (encode i) = .ok i := by
  cases i with
  | cls | ret => rfl
  | jp nnn | call nnn | ldI nnn | jpV0 nnn =>
    have hn : nnn.toNat < 4096 := of_decide_eq_true h
    simp [encode, decodeWord, nnnField_formatA _ hn]
  | drw x y n =>
    have hn : n < 16 := of_decide_eq_true h
    simp [encode, decodeWord, Nat.mod_eq_of_lt hn]
  | seImm | sneImm | ldImm | addImm | rnd => simp [encode, decodeWord]
  | seReg | sneReg => simp [encode, decodeWord]
  | ldReg | orReg | andReg | xorReg | addReg | subReg | shr | subnReg | shl =>
    simp [encode, decodeWord, decodeFamily8]
  | skp | sknp => simp [encode, decodeWord, decodeFamilyE]
  | ldVxDt | ldVxK | ldDtVx | ldStVx | addI | ldF | ldB | ldMemVx | ldVxMem =>
    simp [encode, decodeWord, decodeFamilyF]

/-- Settles O1: each field of the encoded word is the operand it was made of. -/
theorem decodeOfEncodeIsIdentity : Obligations.DecodeOfEncodeIsIdentity := fun _ => decodeWord_encode

/-! ### Encoding a decoded word -/

/-- What the decoder may answer for `w`: that it is unknown, or a well-formed instruction whose word is `w`. -/
inductive Faithful (w : Word) : Except DecodeError Instr → Prop
  | unknown : Faithful w (.error (.unknownWord w))
  | ok {i : Instr} (hwf : i.wellFormed = true) (henc : encode i = w) : Faithful w (.ok i)

variable {w : Word}

theorem decodeFamily0_faithful : Faithful w (decodeFamily0 w) := by
  unfold decodeFamily0
  split
  · next h => exact .ok rfl h.symm
  split
  · next h => exact .ok rfl h.symm
  · exact .unknown

theorem decodeFamily8_faithful (hop : (opField w).toNat = 0x8) : Faithful w (decodeFamily8 w) := by
  unfold decodeFamily8
  split
  case h_10 => exact .unknown
  all_goals next hn => exact .ok rfl (formatXY_fields hop hn)

theorem decodeFamilyE_faithful (hop : (opField w).toNat = 0xE) : Faithful w (decodeFamilyE w) := by
  unfold decodeFamilyE
  split
  case h_3 => exact .unknown
  all_goals next hkk => exact .ok rfl (formatX_fields hop hkk)

theorem decodeFamilyF_faithful (hop : (opField w).toNat = 0xF) : Faithful w (decodeFamilyF w) := by
  unfold decodeFamilyF
  split
  case h_10 => exact .unknown
  all_goals next hkk => exact .ok rfl (formatX_fields hop hkk)

theorem addressFits_nnnField (w : Word) : addressFits (nnnField w) = true := by
  rw [addressFits, nnnField_toNat]
  exact decide_eq_true (Nat.mod_lt _ (by decide))

theorem heightFits_nField (w : Word) : heightFits (nField w) = true := by
  rw [heightFits, nField_eq]
  exact decide_eq_true (Nat.mod_lt _ (by decide))

/-- No bit of a legal word is dropped, family by family. -/
theorem decodeWord_faithful (w : Word) : Faithful w (decodeWord w) := by
  unfold decodeWord
  split
  case h_1 => exact decodeFamily0_faithful
  case h_2 hop | h_3 hop | h_11 hop | h_12 hop => exact .ok (addressFits_nnnField w) (formatA_fields hop)
  case h_4 hop | h_5 hop | h_7 hop | h_8 hop | h_13 hop => exact .ok rfl (formatXK_fields hop)
  case h_6 hop | h_10 hop =>
    split
    · next hn => exact .ok rfl (formatXY_fields hop hn)
    · exact .unknown
  case h_9 hop => exact decodeFamily8_faithful hop
  case h_14 hop => exact .ok (heightFits_nField w) (formatXY_fields hop rfl)
  case h_15 hop => exact decodeFamilyE_faithful hop
  case h_16 hop => exact decodeFamilyF_faithful hop
  case h_17 => exact .unknown

/-- A word that decodes to an instruction is the word of that well-formed instruction. -/
theorem encode_of_decodeWord {i : Instr} (h : decodeWord w = .ok i) : i.wellFormed = true ∧ encode i = w := by
  have hw := decodeWord_faithful w
  rw [h] at hw
  cases hw with
  | ok hwf henc => exact ⟨hwf, henc⟩

/-- The only error of decoding a word is that it is unknown. -/
theorem decodeWord_error {e : DecodeError} (h : decodeWord w = .error e) : e = .unknownWord w := by
  have hw := decodeWord_faithful w
  rw [h] at hw
  cases hw with
  | unknown => rfl

/-- Settles O2: the fields of a legal word, put together again, are the whole word. -/
theorem encodeOfDecodeIsIdentity : Obligations.EncodeOfDecodeIsIdentity := fun _ _ => encode_of_decodeWord

end Sys2Proof
end

section
/-! The opcode map (30_encoding.md R66): a word selects the row of the instruction it decodes to, and no other. -/

namespace Sys2Proof

variable {w : Word}

/-! ### Selecting a row is having the row's fixed fields -/

/-- A row that fixes the family only. -/
theorem opField_of_selected {name : String} {pattern : Word}
    (h : Row.selectedBy ⟨name, 0xF000, pattern⟩ w = true) : (opField w).toNat = pattern.toNat / 4096 := by
  have hw := w.isLt
  have hp : w &&& 0xF000#16 = pattern := by simpa [Row.selectedBy] using h
  rw [opField_toNat, ← hp, and_F000_toNat]
  omega

/-- A row that fixes the family and the low nibble. -/
theorem opField_nField_of_selected {name : String} {pattern : Word}
    (h : Row.selectedBy ⟨name, 0xF00F, pattern⟩ w = true) :
    (opField w).toNat = pattern.toNat / 4096 ∧ nField w = pattern.toNat % 16 := by
  have hw := w.isLt
  have hp : w &&& 0xF00F#16 = pattern := by simpa [Row.selectedBy] using h
  rw [opField_toNat, nField_eq, ← hp, and_F00F_toNat]
  omega

/-- A row that fixes the family and the low byte. -/
theorem opField_kkField_of_selected {name : String} {pattern : Word}
    (h : Row.selectedBy ⟨name, 0xF0FF, pattern⟩ w = true) :
    (opField w).toNat = pattern.toNat / 4096 ∧ (kkField w).toNat = pattern.toNat % 256 := by
  have hw := w.isLt
  have hp : w &&& 0xF0FF#16 = pattern := by simpa [Row.selectedBy] using h
  rw [opField_toNat, kkField_toNat, ← hp, and_F0FF_toNat]
  omega

/-- A row that fixes the whole word. -/
theorem eq_of_selected {name : String} {pattern : Word} (h : Row.selectedBy ⟨name, 0xFFFF, pattern⟩ w = true) :
    w = pattern := by
  have hall : w &&& 0xFFFF#16 = w := BitVec.and_allOnes
  rw [← hall]
  simpa [Row.selectedBy] using h

/-! ### Decoding and the map -/

/-- A word that selects the row of an instruction decodes to an instruction of the same row. -/
theorem decodeWord_of_selected {i : Instr} (h : (rowOf i).selectedBy w = true) :
    ∃ j, decodeWord w = .ok j ∧ rowOf j = rowOf i := by
  cases i with
  | cls | ret =>
    obtain rfl := eq_of_selected h
    exact ⟨_, rfl, rfl⟩
  | jp | call | seImm | sneImm | ldImm | addImm | ldI | jpV0 | rnd | drw =>
    have hop := opField_of_selected h
    simp [decodeWord, hop, rowOf]
  | seReg | sneReg | ldReg | orReg | andReg | xorReg | addReg | subReg | shr | subnReg | shl =>
    obtain ⟨hop, hn⟩ := opField_nField_of_selected h
    simp [decodeWord, decodeFamily8, hop, hn, rowOf]
  | skp | sknp | ldVxDt | ldVxK | ldDtVx | ldStVx | addI | ldF | ldB | ldMemVx | ldVxMem =>
    obtain ⟨hop, hkk⟩ := opField_kkField_of_selected h
    simp [decodeWord, decodeFamilyE, decodeFamilyF, hop, hkk, rowOf]

/-- Every row of the map is the row of an instruction. -/
theorem exists_rowOf_eq {r : Row} (hr : r ∈ opcodeTable) : ∃ i, rowOf i = r := by
  obtain ⟨i, _, hi⟩ := List.mem_map.mp hr
  exact ⟨i, hi⟩

/-- A word that selects a row of the map decodes to an instruction of that row. -/
theorem decodeWord_of_row {r : Row} (hr : r ∈ opcodeTable) (h : r.selectedBy w = true) :
    ∃ i, decodeWord w = .ok i ∧ rowOf i = r := by
  obtain ⟨i, rfl⟩ := exists_rowOf_eq hr
  exact decodeWord_of_selected h

/-- The word of every instruction selects its row, and the row is in the map. -/
theorem encode_selects_rowOf (i : Instr) : Laws.EncodeSelectsRow.Statement i := by
  cases i with
  | cls => exact Laws.EncodeSelectsRow.cls
  | ret => exact Laws.EncodeSelectsRow.ret
  | jp nnn => exact Laws.EncodeSelectsRow.jp nnn
  | call nnn => exact Laws.EncodeSelectsRow.call nnn
  | seImm x kk => exact Laws.EncodeSelectsRow.seImm x kk
  | sneImm x kk => exact Laws.EncodeSelectsRow.sneImm x kk
  | seReg x y => exact Laws.EncodeSelectsRow.seReg x y
  | ldImm x kk => exact Laws.EncodeSelectsRow.ldImm x kk
  | addImm x kk => exact Laws.EncodeSelectsRow.addImm x kk
  | ldReg x y => exact Laws.EncodeSelectsRow.ldReg x y
  | orReg x y => exact Laws.EncodeSelectsRow.orReg x y
  | andReg x y => exact Laws.EncodeSelectsRow.andReg x y
  | xorReg x y => exact Laws.EncodeSelectsRow.xorReg x y
  | addReg x y => exact Laws.EncodeSelectsRow.addReg x y
  | subReg x y => exact Laws.EncodeSelectsRow.subReg x y
  | shr x y => exact Laws.EncodeSelectsRow.shr x y
  | subnReg x y => exact Laws.EncodeSelectsRow.subnReg x y
  | shl x y => exact Laws.EncodeSelectsRow.shl x y
  | sneReg x y => exact Laws.EncodeSelectsRow.sneReg x y
  | ldI nnn => exact Laws.EncodeSelectsRow.ldI nnn
  | jpV0 nnn => exact Laws.EncodeSelectsRow.jpV0 nnn
  | rnd x kk => exact Laws.EncodeSelectsRow.rnd x kk
  | drw x y n => exact Laws.EncodeSelectsRow.drw x y n
  | skp x => exact Laws.EncodeSelectsRow.skp x
  | sknp x => exact Laws.EncodeSelectsRow.sknp x
  | ldVxDt x => exact Laws.EncodeSelectsRow.ldVxDt x
  | ldVxK x => exact Laws.EncodeSelectsRow.ldVxK x
  | ldDtVx x => exact Laws.EncodeSelectsRow.ldDtVx x
  | ldStVx x => exact Laws.EncodeSelectsRow.ldStVx x
  | addI x => exact Laws.EncodeSelectsRow.addI x
  | ldF x => exact Laws.EncodeSelectsRow.ldF x
  | ldB x => exact Laws.EncodeSelectsRow.ldB x
  | ldMemVx x => exact Laws.EncodeSelectsRow.ldMemVx x
  | ldVxMem x => exact Laws.EncodeSelectsRow.ldVxMem x

/-- Strict decode (decision D3): the decoder accepts a word iff the word selects a row of the map. -/
theorem decodeWord_ok_iff : (∃ i, decodeWord w = .ok i) ↔ ∃ r ∈ opcodeTable, r.selectedBy w = true := by
  constructor
  · rintro ⟨i, hi⟩
    obtain ⟨_, rfl⟩ := encode_of_decodeWord hi
    obtain ⟨hselected, hmem⟩ := encode_selects_rowOf i
    exact ⟨rowOf i, hmem, hselected⟩
  · rintro ⟨r, hr, h⟩
    obtain ⟨i, hi, _⟩ := decodeWord_of_row hr h
    exact ⟨i, hi⟩

/-- A word is unknown iff it selects no row of the map. -/
theorem decodeWord_unknown_iff :
    decodeWord w = .error (.unknownWord w) ↔ ∀ r ∈ opcodeTable, r.selectedBy w = false := by
  constructor
  · intro herr r hr
    by_contra h
    obtain ⟨i, hi, _⟩ := decodeWord_of_row hr (Bool.eq_true_of_not_eq_false h)
    simp [herr] at hi
  · intro hnone
    cases hd : decodeWord w with
    | error e => rw [decodeWord_error hd]
    | ok i =>
      obtain ⟨r, hr, h⟩ := decodeWord_ok_iff.mp ⟨i, hd⟩
      simp [hnone r hr] at h

/-! ### The obligations -/

/-- Settles O3: acceptance is selecting a row, and a rejected word is reported as unknown. -/
theorem legalWordsAreThoseOfTheOpcodeMap : Obligations.LegalWordsAreThoseOfTheOpcodeMap := fun _ =>
  ⟨decodeWord_ok_iff, decodeWord_unknown_iff⟩

/-- Settles O4: both rows are the row of the one instruction the word decodes to. -/
theorem noWordSelectsTwoRows : Obligations.NoWordSelectsTwoRows := fun w r r' hr hr' h h' => by
  obtain ⟨i, hi, rfl⟩ := decodeWord_of_row hr h
  obtain ⟨j, hj, rfl⟩ := decodeWord_of_row hr' h'
  have hij : Except.ok i = Except.ok j := hi.symm.trans hj
  rw [Except.ok.inj hij]

/-- Settles O5: fixed words, run through the decoder. -/
theorem confirmedWordsDecode : Obligations.ConfirmedWordsDecode :=
  ⟨rfl, rfl, rfl, rfl, rfl, rfl⟩

end Sys2Proof
end

section
/-! Frames are kept by an assignment to the stack or to the latch where they list it. -/

namespace Sys2Proof.Safety

open Sys2Proof.Machine

variable {w : Writes} {s t : State}

/-- A frame that lists the stack allows an assignment to it. -/
theorem Frame.setStack (h : Frame w s t) (hstack : w.stack = true) (l : List Word) : Frame w s (t.setStack l) :=
  { h with stack := fun hf => Bool.noConfusion (hf.symm.trans hstack) }

/-- A frame that lists the latch allows an assignment to it. -/
theorem Frame.setLatch (h : Frame w s t) (hlatch : w.latch = true) (l : Latch) : Frame w s (t.setLatch l) :=
  { h with latch := fun hf => Bool.noConfusion (hf.symm.trans hlatch) }

/-- No frame speaks of pc, so an assignment to it keeps them all. -/
theorem Frame.setPc (h : Frame w s t) (a : Word) : Frame w s (t.setPc a) := { h with }

end Sys2Proof.Safety
end

section
/-! Control transfer through the stack and through V[0] (40_step_and_flow.md R83, R85, R90), and the skips on keys
(44_keys_timers.md R140 to R142). -/

namespace Sys2Proof.Machine

open Sys2Proof.Safety

variable {s t : State} {nnn a : Word} {rest : List Word}

/-! ### What RET and CALL answer -/

/-- RET with an empty stack raises StackUnderflow (60_exceptions.md R151). -/
theorem exec_ret_nil (h : s.stack = []) : exec .ret s = .next (s.raise (.stackUnderflow s.pc)) := by
  simp [exec, execRet, h]

/-- RET pops the newest return address into pc (R83). -/
theorem exec_ret_cons (h : s.stack = a :: rest) : exec .ret s = .next ((s.setStack rest).setPc a) := by
  simp [exec, execRet, h]

/-- Everything RET can do. -/
theorem exec_ret_cases (s : State) :
    (s.stack = [] ∧ exec .ret s = .next (s.raise (.stackUnderflow s.pc))) ∨
    (∃ a rest, s.stack = a :: rest ∧ exec .ret s = .next ((s.setStack rest).setPc a)) := by
  cases h : s.stack with
  | nil => exact .inl ⟨rfl, exec_ret_nil h⟩
  | cons a rest => exact .inr ⟨a, rest, rfl, exec_ret_cons h⟩

/-- There is room on the stack iff it is shorter than a finite STACK_DEPTH (10_state.md R20). -/
theorem State.stackFull_eq_false_iff :
    s.stackFull = false ↔ ∀ d, s.env.stackDepth = some d → s.stack.length < d := by
  unfold State.stackFull
  cases s.env.stackDepth with
  | none => simp
  | some d => simp

/-- CALL with a full stack raises StackOverflow (60_exceptions.md R152). -/
theorem exec_call_full (h : s.stackFull = true) : exec (.call nnn) s = .next (s.raise (.stackOverflow s.pc)) := by
  simp [exec, execCall, h]

/-- CALL with room pushes the address of the next word and jumps (R85). -/
theorem exec_call_room (h : s.stackFull = false) :
    exec (.call nnn) s = .next ((s.setStack ((s.pc + 2) :: s.stack)).setPc nnn) := by
  simp [exec, execCall, h]

/-- Everything CALL can do. -/
theorem exec_call_cases (nnn : Word) (s : State) :
    (s.stackFull = true ∧ exec (.call nnn) s = .next (s.raise (.stackOverflow s.pc))) ∨
    (s.stackFull = false ∧ exec (.call nnn) s = .next ((s.setStack ((s.pc + 2) :: s.stack)).setPc nnn)) := by
  cases h : s.stackFull with
  | true => exact .inl ⟨rfl, exec_call_full h⟩
  | false => exact .inr ⟨rfl, exec_call_room h⟩

/-! ### What the other instructions answer -/

/-- JP V0,nnn (R90). -/
@[simp] theorem exec_jpV0 (nnn : Word) (s : State) :
    exec (.jpV0 nnn) s = .next (s.setPc (nnn + zext16 (s.reg 0))) := rfl

/-- The sum of R90 is exact: a 12-bit address and a byte fit in 16 bits. -/
theorem add_zext16_toNat (hn : nnn.toNat < 4096) (b : Byte) : (nnn + zext16 b).toNat = nnn.toNat + b.toNat := by
  have := b.isLt
  rw [BitVec.toNat_add, zext16_toNat]
  omega

/-- A key is down if its code is at most 15 and its level is 1 (R140). -/
theorem keyIsDown_eq_decide (s : State) (v : Byte) :
    keyIsDown s v = decide (v.toNat ≤ 15 ∧ s.env.ports.keys.getLsbD v.toNat = true) := by
  simp [keyIsDown]

/-- SKP Vx (R141). -/
theorem exec_skp (x : Reg) (s : State) :
    exec (.skp x) s = .next (s.skipIf
      (decide ((s.reg x).toNat ≤ 15 ∧ s.env.ports.keys.getLsbD (s.reg x).toNat = true))) := by
  rw [← keyIsDown_eq_decide]
  rfl

/-- SKNP Vx (R142). -/
theorem exec_sknp (x : Reg) (s : State) :
    exec (.sknp x) s = .next (s.skipIf
      (decide ¬((s.reg x).toNat ≤ 15 ∧ s.env.ports.keys.getLsbD (s.reg x).toNat = true))) := by
  rw [decide_not, ← keyIsDown_eq_decide]
  rfl

/-! ### The obligations -/

/-- Settles O16: a stack that is shorter than STACK_DEPTH is not full. -/
theorem callPushesTheReturnAddress : Obligations.CallPushesTheReturnAddress := fun s nnn hroom =>
  ⟨_, exec_call_room (State.stackFull_eq_false_iff.mpr hroom), rfl, rfl,
    ((Frame.refl _ s).setStack rfl _).setPc nnn⟩

/-- Settles O17: a stack of length STACK_DEPTH is full. -/
theorem callOnFullStackRaisesOverflow : Obligations.CallOnFullStackRaisesOverflow := fun s nnn d hd hlen => by
  have hfull : s.stackFull = true := by simp [State.stackFull, hd, hlen]
  exact ⟨exec_call_full hfull, rfl⟩

/-- Settles O18: RET on a stack with an entry is one assignment to the stack and one to pc. -/
theorem returnPopsTheNewestAddress : Obligations.ReturnPopsTheNewestAddress := fun s a rest h =>
  ⟨_, exec_ret_cons h, rfl, rfl, ((Frame.refl _ s).setStack rfl rest).setPc a⟩

/-- Settles O19: RET on an empty stack raises the record and does nothing else. -/
theorem returnOnEmptyStackRaisesUnderflow : Obligations.ReturnOnEmptyStackRaisesUnderflow := fun _ h =>
  ⟨exec_ret_nil h, rfl⟩

/-- Settles O20: without a fault the CALL had room, so the newest entry of the stack it left is the word after it. -/
theorem returnComesBackAfterItsCall : Obligations.ReturnComesBackAfterItsCall := fun s t u nnn hexec hfault hstack => by
  obtain ⟨_, hraise⟩ | ⟨_, hpush⟩ := exec_call_cases nnn s
  · obtain rfl := Host.Outcome.next.inj (hraise.symm.trans hexec)
    simp at hfault
  · obtain rfl := Host.Outcome.next.inj (hpush.symm.trans hexec)
    exact ⟨_, exec_ret_cons hstack, rfl, rfl⟩

/-- Settles O23: the sum does not wrap. -/
theorem jumpWithOffsetAddsV0 : Obligations.JumpWithOffsetAddsV0 := fun s nnn hwf =>
  ⟨_, exec_jpV0 nnn s, add_zext16_toNat (of_decide_eq_true hwf) (s.reg 0), s.setPc_frame _⟩

/-- Settles O48: SKP skips on a key that is down, SKNP on its negation. -/
theorem keySkipsFollowTheKeyLevel : Obligations.KeySkipsFollowTheKeyLevel := fun s x =>
  ⟨⟨_, exec_skp x s, s.skipIf_frame _, s.skipIf_decide_pc _⟩,
    ⟨_, exec_sknp x s, s.skipIf_frame _, s.skipIf_decide_not_pc _⟩⟩

end Sys2Proof.Machine
end

section
/-! The instructions that write VF as a flag (41_alu.md R108 to R112), and RND (R113). -/

namespace Sys2Proof.Machine

open Sys2Proof.Safety

/-! ### Flags and results as numbers -/

/-- A flag of a condition, as the statements write it. -/
theorem flagByte_decide (p : Prop) [Decidable p] : flagByte (decide p) = if p then 1 else 0 := by
  by_cases h : p <;> simp [flagByte, h]

/-- A flag of a bit is the bit as a number. -/
theorem flagByte_toNat (c : Bool) : (flagByte c).toNat = c.toNat := by cases c <;> rfl

/-- The difference of R109 and R111 as a number. -/
theorem differenceByte_toNat (a b : Byte) : ((differenceByte a b).toNat : Int) = (a.toNat - b.toNat : Int) % 256 := by
  rw [differenceByte, BitVec.toNat_ofInt]
  omega

/-- SHR halves the byte (R110). -/
theorem shiftRightByte_toNat (a : Byte) : (shiftRightByte a).toNat = a.toNat / 2 := by
  rw [shiftRightByte, BitVec.toNat_ushiftRight, Nat.shiftRight_one]

/-- SHR moves out the lowest bit (R110). -/
theorem flagByte_shiftRightFlag_toNat (a : Byte) : (flagByte (shiftRightFlag a)).toNat = a.toNat % 2 := by
  rw [flagByte_toNat, shiftRightFlag, BitVec.getLsbD, Nat.toNat_testBit]
  omega

/-- SHL doubles the byte modulo 256 (R112). -/
theorem shiftLeftByte_toNat (a : Byte) : (shiftLeftByte a).toNat = a.toNat * 2 % 256 := by
  rw [shiftLeftByte, BitVec.toNat_shiftLeft, Nat.shiftLeft_eq, pow_one]

/-- SHL moves out the highest bit (R112). -/
theorem flagByte_shiftLeftFlag_toNat (a : Byte) : (flagByte (shiftLeftFlag a)).toNat = a.toNat / 128 := by
  have := a.isLt
  rw [flagByte_toNat, shiftLeftFlag, BitVec.getLsbD, Nat.toNat_testBit]
  omega

/-! ### What the instructions answer -/

/-- ADD Vx,Vy (R108). -/
@[simp] theorem exec_addReg (x y : Reg) (s : State) : exec (.addReg x y) s =
    .next (s.writeFlagThenResult (carryFlag (s.reg x) (s.reg y)) x (sumByte (s.reg x) (s.reg y))).advance := rfl

/-- SUB Vx,Vy (R109). -/
@[simp] theorem exec_subReg (x y : Reg) (s : State) : exec (.subReg x y) s =
    .next (s.writeFlagThenResult (greaterFlag (s.reg x) (s.reg y)) x (differenceByte (s.reg x) (s.reg y))).advance :=
  rfl

/-- SHR Vx (R110). -/
@[simp] theorem exec_shr (x y : Reg) (s : State) : exec (.shr x y) s =
    .next (s.writeFlagThenResult (shiftRightFlag (s.reg x)) x (shiftRightByte (s.reg x))).advance := rfl

/-- SUBN Vx,Vy (R111). -/
@[simp] theorem exec_subnReg (x y : Reg) (s : State) : exec (.subnReg x y) s =
    .next (s.writeFlagThenResult (greaterFlag (s.reg y) (s.reg x)) x (differenceByte (s.reg y) (s.reg x))).advance :=
  rfl

/-- SHL Vx (R112). -/
@[simp] theorem exec_shl (x y : Reg) (s : State) : exec (.shl x y) s =
    .next (s.writeFlagThenResult (shiftLeftFlag (s.reg x)) x (shiftLeftByte (s.reg x))).advance := rfl

/-- RND Vx,kk (R113). -/
@[simp] theorem exec_rnd (x : Reg) (kk : Byte) (s : State) :
    exec (.rnd x kk) s = .next (s.setReg x (s.env.ports.rnd &&& kk)).advance := rfl

/-! ### Writing the flag and the result -/

/-- The result is written last, so it stays for x = 15 too (decision D11). -/
theorem State.writeFlagThenResult_reg_self (s : State) (c : Bool) (x : Reg) (b : Byte) :
    (s.writeFlagThenResult c x b).reg x = b := by simp

/-- VF is the flag unless it is the destination. -/
theorem State.writeFlagThenResult_reg_flag (s : State) (c : Bool) {x : Reg} (b : Byte) (hx : x ≠ 15) :
    (s.writeFlagThenResult c x b).reg 15 = flagByte c := by simp [hx.symm]

/-- An instruction that answers with a flag, a result and the next word leaves everything but VF and its destination
unchanged. -/
theorem exec_next_of_eq_writeFlagThenResult {i : Instr} {s : State} {c : Bool} {x : Reg} {b : Byte}
    (h : exec i s = .next (s.writeFlagThenResult c x b).advance) :
    ∃ t, exec i s = .next t ∧ t.reg x = b ∧ (x ≠ 15 → t.reg 15 = flagByte c) ∧ t.pc = s.pc + 2 ∧
      Frame { regs := [x, 15] } s t :=
  ⟨_, h, s.writeFlagThenResult_reg_self c x b, s.writeFlagThenResult_reg_flag c b, rfl,
    (((Frame.refl _ s).setReg (by simp) (flagByte c)).setReg (by simp) b).advance⟩

/-! ### The obligations -/

/-- Settles O28: the flag is the carry of the exact sum. -/
theorem addWritesSumAndCarry : Obligations.AddWritesSumAndCarry := fun s x y =>
  have ⟨t, hexec, hreg, hflag, hpc, hframe⟩ := exec_next_of_eq_writeFlagThenResult (exec_addReg x y s)
  ⟨t, hexec, hreg ▸ sumByte_toNat (s.reg x) (s.reg y), fun hx => (hflag hx).trans (flagByte_decide _), hpc, hframe⟩

/-- Settles O29: SUBN is SUB with the operands exchanged. -/
theorem subtractionsWriteDifferenceAndComparison : Obligations.SubtractionsWriteDifferenceAndComparison := fun s x y =>
  have ⟨t, hexec, hreg, hflag, hpc, hframe⟩ := exec_next_of_eq_writeFlagThenResult (exec_subReg x y s)
  have ⟨t', hexec', hreg', hflag', hpc', hframe'⟩ := exec_next_of_eq_writeFlagThenResult (exec_subnReg x y s)
  ⟨⟨t, hexec, hreg ▸ differenceByte_toNat _ _, fun hx => (hflag hx).trans (flagByte_decide _), hpc, hframe⟩,
    ⟨t', hexec', hreg' ▸ differenceByte_toNat _ _, fun hx => (hflag' hx).trans (flagByte_decide _), hpc', hframe'⟩⟩

/-- Settles O30: the y field stands on no right-hand side. -/
theorem shiftsWriteResultAndShiftedBit : Obligations.ShiftsWriteResultAndShiftedBit := fun s x y => by
  obtain ⟨t, hexec, hreg, hflag, hpc, hframe⟩ := exec_next_of_eq_writeFlagThenResult (exec_shr x y s)
  obtain ⟨t', hexec', hreg', hflag', hpc', hframe'⟩ := exec_next_of_eq_writeFlagThenResult (exec_shl x y s)
  refine ⟨⟨t, hexec, ?_, fun hx => ?_, hpc, hframe⟩, ⟨t', hexec', ?_, fun hx => ?_, hpc', hframe'⟩⟩
  · rw [hreg, shiftRightByte_toNat]
  · rw [hflag hx, flagByte_shiftRightFlag_toNat]
  · rw [hreg', shiftLeftByte_toNat]
  · rw [hflag' hx, flagByte_shiftLeftFlag_toNat]

/-- Settles O31: one register write of the sampled byte, whatever it is, masked. -/
theorem randomIsMasked : Obligations.RandomIsMasked := fun s x kk => exec_next_of_eq_setReg (exec_rnd x kk s)

end Sys2Proof.Machine
end

section
/-! Adding to I (42_index_memory.md R121), a store followed by a load (R124, R125) or by a fetch of what was stored
(20_memory.md R55), and LD Vx,K (44_keys_timers.md R143). -/

namespace Sys2Proof.Machine

open Sys2Proof.Safety

/-! ### What the instructions answer -/

/-- ADD I,Vx (R121). -/
@[simp] theorem exec_addI (x : Reg) (s : State) :
    exec (.addI x) s = .next (s.setI (BitVec.ofNat 16 ((s.i.toNat + (s.reg x).toNat) % 4096))).advance := rfl

/-- LD Vx,K (R143). -/
@[simp] theorem exec_ldVxK (x : Reg) (s : State) : exec (.ldVxK x) s = .next (s.setLatch (.waiting x)).advance := rfl

/-! ### Bytes that were stored -/

/-- An index reduced modulo 4096 fits in 16 bits. -/
theorem ofNat_mod_4096_toNat (n : Nat) : (BitVec.ofNat 16 (n % 4096)).toNat = n % 4096 :=
  (BitVec.toNat_ofNat _ 16).trans (Nat.mod_eq_of_lt ((Nat.mod_lt n (by decide)).trans (by decide)))

/-- After storing V[0..x], the byte at I + q is V[q]. -/
theorem State.storeAtI_regRange_readAtI (s : State) {x q : Reg} (hq : q ≤ x) :
    (s.storeAtI (regRange s x)).readAtI q.val = s.reg q := by
  have hlt : q.val < (regRange s x).length := by simpa using Nat.lt_succ_of_le hq
  have hlen : (regRange s x).length ≤ 4096 := by rw [regRange_length]; omega
  rw [← State.read_ea]
  exact (s.storeAtI_read_ea hlen hlt).trans (regRange_getElem s x q.val hlt)

/-- Registers that are equal one by one are equal. -/
theorem State.v_eq_of_reg {s t : State} (h : ∀ q, t.reg q = s.reg q) : t.v = s.v :=
  Vector.ext fun k hk => h ⟨k, hk⟩

/-- pc wraps at 65536, a multiple of the size of memory, so an address after pc wraps as memory does. -/
theorem add_two_toNat_mod_4096 (pc : Word) (k : Nat) : ((pc + 2).toNat + k) % 4096 = (pc.toNat + 2 + k) % 4096 := by
  have htwo : (2 : Word).toNat = 2 := rfl
  rw [BitVec.toNat_add, htwo]
  omega

/-! ### The obligations -/

/-- Settles O36: one assignment to I of the sum modulo 4096. -/
theorem addToIndexWrapsAt4096 : Obligations.AddToIndexWrapsAt4096 := fun s x => by
  obtain ⟨t, hexec, hi, hpc, hframe⟩ := exec_next_of_eq_setI (exec_addI x s)
  exact ⟨t, hexec, hi ▸ ofNat_mod_4096_toNat _, hpc, hframe⟩

/-- Settles O50: one assignment to the latch. -/
theorem blockOnKeyWaitsPastItself : Obligations.BlockOnKeyWaitsPastItself := fun s x =>
  ⟨_, exec_ldVxK x s, rfl, rfl, ((Frame.refl _ s).setLatch rfl (.waiting x)).advance⟩

/-- Settles O40: the load reads back each register up to x from where the store put it. -/
theorem storeThenLoadRestoresTheRegisters : Obligations.StoreThenLoadRestoresTheRegisters := fun s x => by
  refine ⟨_, _, exec_ldMemVx x s, exec_ldVxMem x _, State.v_eq_of_reg fun q => ?_, rfl⟩
  rw [State.advance_eq, State.setPc_reg, State.loadAtI_reg]
  by_cases hq : q ≤ x
  · rw [if_pos (Nat.lt_succ_of_le hq)]
    exact s.storeAtI_regRange_readAtI hq
  · have hge : ¬q.val < x.val + 1 := fun hlt => hq (Nat.le_of_lt_succ hlt)
    rw [if_neg hge]
    rfl

/-- Settles O42: the two bytes of the next fetch are at EA(k) and EA(k + 1), both stored. -/
theorem storedWordIsFetchedNext : Obligations.StoredWordIsFetchedNext := fun s x k k' hk' hle hea => by
  have hlow : k ≤ x := le_trans (Fin.le_def.mpr (by omega)) hle
  have hread : ∀ q : Reg, q ≤ x → ∀ a, a % 4096 = s.ea q.val →
      (s.storeAtI (regRange s x)).mem.read a = s.reg q := fun q hq a ha => by
    rw [← Memory.read_mod, ha, ← s.storeAtI_regRange_readAtI hq]
    exact (s.storeAtI (regRange s x)).read_ea q.val
  refine ⟨_, exec_ldMemVx x s, rfl, congrArg₂ composeWord (hread k hlow _ ?_) (hread k' hle _ ?_)⟩
  · exact (add_two_toNat_mod_4096 s.pc 0).trans hea.symm
  · have hea' : s.ea k'.val = (s.ea k.val + 1) % 4096 := by simp [State.ea, hk']; omega
    rw [hea', hea]
    exact (add_two_toNat_mod_4096 s.pc 1).trans (by omega)

end Sys2Proof.Machine
end

section
/-! The canonical form of memory: a canonical memory is determined by its reads. -/

namespace Sys2Proof.Machine

variable {m m' : Memory} {lo a : Nat} {b : Byte}

@[simp] theorem Memory.lookup_cons_self (m : Memory) (a : Nat) (b : Byte) :
    Memory.lookup ((a, b) :: m) a = some b := by simp [Memory.lookup]

theorem Memory.lookup_cons_of_ne (m : Memory) {a c : Nat} (b : Byte) (h : c ≠ a) :
    Memory.lookup ((a, b) :: m) c = m.lookup c := by simp [Memory.lookup, h]

theorem Memory.wfFrom_cons_iff : Memory.wfFrom lo ((a, b) :: m) = true ↔
    (lo ≤ a ∧ a < 4096 ∧ b ≠ Memory.initial a) ∧ Memory.wfFrom (a + 1) m = true := by
  simp [Memory.wfFrom]

/-- A listed address lies within the bounds and does not hold its reset contents. -/
theorem Memory.lookup_bounds (hm : Memory.wfFrom lo m = true) (h : m.lookup a = some b) :
    lo ≤ a ∧ a < 4096 ∧ b ≠ Memory.initial a := by
  induction m generalizing lo with
  | nil => simp [Memory.lookup] at h
  | cons c rest ih =>
    obtain ⟨a', b'⟩ := c
    obtain ⟨hhead, hrest⟩ := Memory.wfFrom_cons_iff.mp hm
    by_cases ha : a = a'
    · subst ha
      obtain rfl : b' = b := by simpa using h
      exact hhead
    · rw [Memory.lookup_cons_of_ne rest b' ha] at h
      obtain ⟨hle, hbounds⟩ := ih hrest h
      exact ⟨by omega, hbounds⟩

/-- The head of a canonical memory is its lowest address. -/
theorem Memory.head_le {c : Nat} {b' : Byte} (hm : Memory.wfFrom lo ((a, b) :: m) = true)
    (h : Memory.lookup ((a, b) :: m) c = some b') : a ≤ c := by
  obtain ⟨⟨_, hbounds⟩, hrest⟩ := Memory.wfFrom_cons_iff.mp hm
  obtain ⟨hle, _⟩ := Memory.lookup_bounds (Memory.wfFrom_cons_iff.mpr ⟨⟨le_rfl, hbounds⟩, hrest⟩) h
  exact hle

/-- Two rising lists that list the same bytes are equal: their heads are the lowest address of both. -/
theorem Memory.eq_of_lookup_eq (hm : Memory.wfFrom lo m = true) (hm' : Memory.wfFrom lo m' = true)
    (h : ∀ a, m.lookup a = m'.lookup a) : m = m' := by
  induction m generalizing lo m' with
  | nil =>
    cases m' with
    | nil => rfl
    | cons c' rest' => simpa [Memory.lookup] using h c'.1
  | cons c rest ih =>
    obtain ⟨a, b⟩ := c
    cases m' with
    | nil => simpa [Memory.lookup] using h a
    | cons c' rest' =>
      obtain ⟨a', b'⟩ := c'
      have hle : a ≤ a' := Memory.head_le hm ((h a').trans (Memory.lookup_cons_self rest' a' b'))
      have hge : a' ≤ a := Memory.head_le hm' ((h a).symm.trans (Memory.lookup_cons_self rest a b))
      obtain rfl : a = a' := le_antisymm hle hge
      obtain rfl : b = b' := by simpa using h a
      obtain ⟨_, hrest⟩ := Memory.wfFrom_cons_iff.mp hm
      obtain ⟨_, hrest'⟩ := Memory.wfFrom_cons_iff.mp hm'
      congr 1
      refine ih hrest hrest' fun c => ?_
      by_cases hc : c = a
      · rw [hc, Memory.lookup_below hrest (Nat.lt_succ_self a), Memory.lookup_below hrest' (Nat.lt_succ_self a)]
      · rw [← Memory.lookup_cons_of_ne rest b hc, h c, Memory.lookup_cons_of_ne rest' b hc]

/-- What a canonical memory lists is what differs from the reset contents. -/
theorem Memory.lookup_eq_some_iff (hm : m.wf = true) :
    m.lookup a = some b ↔ a < 4096 ∧ m.read a = b ∧ b ≠ Memory.initial a := by
  constructor
  · intro h
    obtain ⟨_, hlt, hne⟩ := Memory.lookup_bounds hm h
    exact ⟨hlt, by simp [Memory.read, Nat.mod_eq_of_lt hlt, h], hne⟩
  · rintro ⟨hlt, hread, hne⟩
    rw [Memory.read, Nat.mod_eq_of_lt hlt] at hread
    cases hl : m.lookup a with
    | none => exact absurd (by simpa [hl] using hread.symm) hne
    | some b' => simpa [hl] using hread

/-- Settles O43: memories that read alike list the same bytes. -/
theorem canonicalMemoryIsDeterminedByItsReads : Obligations.CanonicalMemoryIsDeterminedByItsReads :=
  fun m m' hm hm' h => Memory.eq_of_lookup_eq hm hm' fun a => Option.ext fun b => by
    rw [Memory.lookup_eq_some_iff hm, Memory.lookup_eq_some_iff hm', h a]

end Sys2Proof.Machine
end

section
/-! Drawing (43_display.md R131, R132): DRW inverts the cells its sprite covers and reports whether it erased one. -/

namespace Sys2Proof.Machine

open Sys2Proof.Safety

variable {s t : State} {x y : Reg} {n px py : Nat}

/-! ### What the instruction answers -/

/-- The framebuffer with the sprite of DRW Vx,Vy,n drawn on it, and whether a cell was erased. -/
def drawing (s : State) (x y : Reg) (n : Nat) : Canvas :=
  Canvas.drawRows ⟨s.fb, false⟩ (s.reg x).toNat (s.reg y).toNat (spriteOperand s n)

/-- The state after DRW Vx,Vy,n. -/
def drawn (s : State) (x y : Reg) (n : Nat) : State :=
  ((s.setFb (drawing s x y n).fb).setReg 15 (flagByte (drawing s x y n).erased)).advance

/-- DRW Vx,Vy,n (R131). -/
theorem exec_drw (x y : Reg) (n : Nat) (s : State) : exec (.drw x y n) s = .next (drawn s x y n) := rfl

/-! ### The cells a sprite covers -/

/-- The indices of the cells the 1 bits of the sprite fall on. -/
def coveredCells (s : State) (x y : Reg) (n : Nat) : List Nat :=
  (spriteCells (s.reg x).toNat (s.reg y).toNat (spriteOperand s n)).map cellIndex

/-- A cell's index determines its column and row. -/
theorem pixelIndex_inj {px' py' : Nat} (hpx : px < 64) (hpx' : px' < 64) :
    pixelIndex px py = pixelIndex px' py' ↔ px = px' ∧ py = py' := by
  simp only [pixelIndex]
  omega

theorem pixelIndex_lt (hpx : px < 64) (hpy : py < 32) : pixelIndex px py < 2048 := by
  simp only [pixelIndex]
  omega

/-- The listed cells are those the sprite covers. -/
theorem spriteCovers_iff (hpx : px < 64) :
    SpriteCovers s x y n px py ↔ pixelIndex px py ∈ coveredCells s x y n := by
  have hcell (xc yc : Nat) : cellIndex (xc, yc) = pixelIndex px py ↔ xc % 64 = px ∧ yc % 32 = py :=
    pixelIndex_inj (Nat.mod_lt _ (by decide)) hpx
  simp only [coveredCells, List.mem_map, mem_spriteCells, spriteOperand_length, spriteOperand_getElem]
  constructor
  · rintro ⟨row, col, hrow, hcol, hbit, hat⟩
    rw [State.read_ea] at hbit
    exact ⟨_, ⟨row, col, hrow, hcol, hbit, rfl⟩, (hcell _ _).mpr hat⟩
  · rintro ⟨_, ⟨row, col, hrow, hcol, hbit, rfl⟩, hat⟩
    rw [← State.read_ea] at hbit
    exact ⟨row, col, hrow, hcol, hbit, (hcell _ _).mp hat⟩

/-- The covered cells depend on V[x], V[y], I and memory only. -/
theorem coveredCells_congr (hx : t.reg x = s.reg x) (hy : t.reg y = s.reg y) (hi : t.i = s.i) (hmem : t.mem = s.mem) :
    coveredCells t x y n = coveredCells s x y n := by
  have hread : t.readAtI = s.readAtI := by
    funext k
    rw [State.readAtI, hi, hmem, State.readAtI]
  rw [coveredCells, spriteOperand, hx, hy, hread, coveredCells, spriteOperand]

/-! ### What drawing does to the cells -/

/-- A drawing inverts the covered cells and no other. -/
theorem drawing_getLsbD (hn : n ≤ 32) {i : Nat} (hi : i < 2048) :
    (drawing s x y n).fb.getLsbD i = (s.fb.getLsbD i ^^ decide (i ∈ coveredCells s x y n)) :=
  Canvas.drawRows_fb _ _ _ _ (by simpa using hn) i hi

/-- A drawing reports an erasure iff the sprite covers a cell that is 1. -/
theorem drawing_erased_iff (hn : n ≤ 32) : (drawing s x y n).erased = true ↔ SpriteErases s x y n := by
  rw [drawing, Canvas.drawRows_erased _ _ _ _ (by simpa using hn), Bool.false_or, List.any_eq_true]
  constructor
  · rintro ⟨p, hp, hlit⟩
    have hpx : p.1 % 64 < 64 := Nat.mod_lt _ (by decide)
    exact ⟨_, _, hpx, Nat.mod_lt _ (by decide), hlit, (spriteCovers_iff hpx).mpr (List.mem_map_of_mem hp)⟩
  · rintro ⟨px, py, hpx, _, hlit, hcovers⟩
    obtain ⟨p, hp, hidx⟩ := List.mem_map.mp ((spriteCovers_iff hpx).mp hcovers)
    exact ⟨p, hp, hidx ▸ hlit⟩

/-- VF after DRW is the erasure flag. -/
theorem drawn_reg_flag : (drawn s x y n).reg 15 = flagByte (drawing s x y n).erased := by simp [drawn]

/-- VF after DRW is 1 if the sprite covers a cell that is 1. -/
theorem drawn_reg_flag_of_erases (hn : n ≤ 32) (h : SpriteErases s x y n) : (drawn s x y n).reg 15 = 1 := by
  rw [drawn_reg_flag, (drawing_erased_iff hn).mpr h]
  rfl

/-- VF after DRW is 0 if the sprite covers no cell that is 1. -/
theorem drawn_reg_flag_of_not_erases (hn : n ≤ 32) (h : ¬SpriteErases s x y n) : (drawn s x y n).reg 15 = 0 := by
  rw [drawn_reg_flag, Bool.eq_false_iff.mpr fun he => h ((drawing_erased_iff hn).mp he)]
  rfl

theorem drawn_frame : Frame { regs := [15], fb := true } s (drawn s x y n) :=
  (((Frame.refl _ s).setFb rfl _).setReg (List.mem_singleton_self 15) _).advance

/-- The cells after DRW, by column and row. -/
theorem drawn_pixel (hn : n ≤ 32) (hpx : px < 64) (hpy : py < 32) : pixel (drawn s x y n).fb px py =
    (pixel s.fb px py ^^ decide (pixelIndex px py ∈ coveredCells s x y n)) :=
  drawing_getLsbD hn (pixelIndex_lt hpx hpy)

/-- Inverting the same cells twice restores them. -/
theorem drawn_drawn_fb (hn : n ≤ 32)
    (hcells : coveredCells (drawn s x y n) x y n = coveredCells s x y n) :
    (drawn (drawn s x y n) x y n).fb = s.fb := by
  refine BitVec.eq_of_getLsbD_eq fun i hi => ?_
  have hsecond : (drawn (drawn s x y n) x y n).fb.getLsbD i =
      ((drawn s x y n).fb.getLsbD i ^^ decide (i ∈ coveredCells (drawn s x y n) x y n)) := drawing_getLsbD hn hi
  have hfirst : (drawn s x y n).fb.getLsbD i = (s.fb.getLsbD i ^^ decide (i ∈ coveredCells s x y n)) :=
    drawing_getLsbD hn hi
  rw [hsecond, hfirst, hcells, Bool.xor_assoc, Bool.xor_self, Bool.xor_false]

/-- A covered cell that is 1 after DRW is one that DRW set. -/
theorem drawn_covered_lit_iff (hn : n ≤ 32) (hpx : px < 64) (hpy : py < 32)
    (hcells : coveredCells (drawn s x y n) x y n = coveredCells s x y n) :
    pixel (drawn s x y n).fb px py = true ∧ SpriteCovers (drawn s x y n) x y n px py ↔
      pixel s.fb px py = false ∧ pixel (drawn s x y n).fb px py = true := by
  rw [spriteCovers_iff hpx, hcells, drawn_pixel hn hpx hpy]
  by_cases hin : pixelIndex px py ∈ coveredCells s x y n
  · simp [hin]
  · simp [hin]

/-- A sprite of a well-formed DRW has at most 32 rows, so no cell is toggled twice. -/
theorem height_le_of_wellFormed (h : (Instr.drw x y n).wellFormed = true) : n ≤ 32 :=
  le_trans (Nat.le_of_lt (of_decide_eq_true h)) (by decide)

/-! ### The obligations -/

/-- Settles O45: a covered cell is inverted once, every other cell stays. -/
theorem drawXorsTheSpriteAndReportsErasure : Obligations.DrawXorsTheSpriteAndReportsErasure := fun s x y n hwf => by
  have hn := height_le_of_wellFormed hwf
  refine ⟨_, exec_drw x y n s, fun px py hpx hpy => ?_, drawn_reg_flag_of_erases hn, drawn_reg_flag_of_not_erases hn,
    rfl, drawn_frame⟩
  rw [spriteCovers_iff hpx, drawn_pixel hn hpx hpy]
  exact ⟨fun hin => by simp [hin], fun hout => by simp [hout]⟩

/-- Settles O46: the second drawing covers the same cells, and erases those that the first one set. -/
theorem drawingTwiceRestoresTheFramebuffer : Obligations.DrawingTwiceRestoresTheFramebuffer :=
  fun s t x y n hwf hexec hx hy => by
  have hn := height_le_of_wellFormed hwf
  obtain rfl : drawn s x y n = t := Host.Outcome.next.inj ((exec_drw x y n s).symm.trans hexec)
  have hcells : coveredCells (drawn s x y n) x y n = coveredCells s x y n := coveredCells_congr hx hy rfl rfl
  have hset : SpriteErases (drawn s x y n) x y n ↔
      ∃ px py, px < 64 ∧ py < 32 ∧ pixel s.fb px py = false ∧ pixel (drawn s x y n).fb px py = true :=
    exists_congr fun px => exists_congr fun py => and_congr_right fun hpx => and_congr_right fun hpy =>
      drawn_covered_lit_iff hn hpx hpy hcells
  refine ⟨_, exec_drw x y n _, drawn_drawn_fb hn hcells, ?_⟩
  rw [← hset]
  refine ⟨fun h => ?_, drawn_reg_flag_of_erases hn⟩
  by_contra hkeeps
  rw [drawn_reg_flag_of_not_erases hn hkeeps] at h
  exact absurd h (by decide)

end Sys2Proof.Machine
end

section
/-! What any instruction can do: the access matrix (10_state.md R30) as a frame, met by every instruction that raises
no fault. -/

namespace Sys2Proof.Machine

open Sys2Proof.Safety

variable {i : Instr} {s t : State}

/-! ### The access matrix -/

/-- What an instruction may write besides pc, the columns of 10_state.md R30. -/
def writesOf (s : State) : Instr → Writes
  | .ret | .call _ => { stack := true }
  | .jp _ | .jpV0 _ | .seImm _ _ | .sneImm _ _ | .seReg _ _ | .sneReg _ _ | .skp _ | .sknp _ => {}
  | .ldImm x _ | .addImm x _ | .ldReg x _ | .orReg x _ | .andReg x _ | .xorReg x _ | .rnd x _ | .ldVxDt x =>
    { regs := [x] }
  | .addReg x _ | .subReg x _ | .shr x _ | .subnReg x _ | .shl x _ => { regs := [x, 15] }
  | .ldVxMem x => { regs := (List.finRange 16).filter fun q => decide (q ≤ x) }
  | .ldI _ | .addI _ | .ldF _ => { i := true }
  | .ldB _ => { stores := storedAddresses s 3 }
  | .ldMemVx x => { stores := storedAddresses s (x.val + 1) }
  | .cls => { fb := true }
  | .drw _ _ _ => { regs := [15], fb := true }
  | .ldVxK _ => { latch := true }
  | .ldDtVx _ => { dt := true }
  | .ldStVx _ => { st := true }

/-- What an instruction may do: raise a fault, which changes FAULT only, or keep to its row of the access matrix. -/
inductive Effect (i : Instr) (s t : State) : Prop
  | raised (r : FaultRecord) (h : t = s.raise r)
  | kept (h : Frame (writesOf s i) s t)

/-- Every instruction answers next. -/
theorem exec_completes (i : Instr) (s : State) : ∃ t, exec i s = .next t := by
  cases i with
  | ret =>
    obtain ⟨_, h⟩ | ⟨a, rest, _, h⟩ := exec_ret_cases s
    · exact ⟨_, h⟩
    · exact ⟨_, h⟩
  | call nnn =>
    obtain ⟨_, h⟩ | ⟨_, h⟩ := exec_call_cases nnn s
    · exact ⟨_, h⟩
    · exact ⟨_, h⟩
  | _ => exact ⟨_, rfl⟩

/-- What an instruction can do, row by row of the access matrix. -/
theorem exec_effect (hexec : exec i s = .next t) : Effect i s t := by
  cases i with
  | ret =>
    obtain ⟨_, h⟩ | ⟨a, rest, _, h⟩ := exec_ret_cases s
    · exact .raised _ (Host.Outcome.next.inj (hexec.symm.trans h))
    · obtain rfl := Host.Outcome.next.inj (hexec.symm.trans h)
      exact .kept (((Frame.refl _ s).setStack rfl rest).setPc a)
  | call nnn =>
    obtain ⟨_, h⟩ | ⟨_, h⟩ := exec_call_cases nnn s
    · exact .raised _ (Host.Outcome.next.inj (hexec.symm.trans h))
    · obtain rfl := Host.Outcome.next.inj (hexec.symm.trans h)
      exact .kept (((Frame.refl _ s).setStack rfl _).setPc nnn)
  | jp | jpV0 | seImm | sneImm | seReg | sneReg | skp | sknp =>
    obtain rfl := Host.Outcome.next.inj hexec
    exact .kept ((Frame.refl _ s).setPc _)
  | ldImm x | addImm x | ldReg x | orReg x | andReg x | xorReg x | rnd x | ldVxDt x =>
    obtain rfl := Host.Outcome.next.inj hexec
    exact .kept ((Frame.refl _ s).setReg (List.mem_singleton_self x) _).advance
  | addReg x | subReg x | shr x | subnReg x | shl x =>
    obtain rfl := Host.Outcome.next.inj hexec
    have hflag : flagReg ∈ [x, 15] := by simp
    have hx : x ∈ [x, 15] := by simp
    exact .kept (((Frame.refl _ s).setReg hflag _).setReg hx _).advance
  | ldVxMem x =>
    obtain rfl := Host.Outcome.next.inj hexec
    refine .kept ((Frame.refl _ s).loadAtI fun q hq => ?_).advance
    have hle : q ≤ x := Nat.le_of_lt_succ hq
    simpa [writesOf] using hle
  | ldI | addI | ldF =>
    obtain rfl := Host.Outcome.next.inj hexec
    exact .kept ((Frame.refl _ s).setI rfl _).advance
  | ldB x =>
    obtain rfl := Host.Outcome.next.inj hexec
    exact .kept ((Frame.refl _ s).storeAtI fun k hk => ea_mem_storedAddresses s hk).advance
  | ldMemVx x =>
    obtain rfl := Host.Outcome.next.inj hexec
    refine .kept ((Frame.refl _ s).storeAtI fun k hk => ea_mem_storedAddresses s ?_).advance
    rwa [← regRange_length s x]
  | cls =>
    obtain rfl := Host.Outcome.next.inj hexec
    exact .kept ((Frame.refl _ s).setFb rfl 0).advance
  | drw x y n =>
    obtain rfl := Host.Outcome.next.inj ((exec_drw x y n s).symm.trans hexec)
    exact .kept drawn_frame
  | ldVxK x =>
    obtain rfl := Host.Outcome.next.inj hexec
    exact .kept ((Frame.refl _ s).setLatch rfl _).advance
  | ldDtVx x =>
    obtain rfl := Host.Outcome.next.inj hexec
    exact .kept ((Frame.refl _ s).setDt rfl _).advance
  | ldStVx x =>
    obtain rfl := Host.Outcome.next.inj hexec
    exact .kept ((Frame.refl _ s).setSt rfl _).advance

/-! ### What an instruction leaves unchanged -/

/-- A register outside the matrix row keeps its value, a fault raised or not. -/
theorem exec_reg_eq (hexec : exec i s = .next t) {q : Reg} (hq : q ∉ (writesOf s i).regs) : t.reg q = s.reg q := by
  obtain ⟨r, rfl⟩ | hframe := exec_effect hexec
  · exact s.raise_reg r q
  · exact hframe.regs q hq

/-- A byte outside the stored addresses keeps its value. -/
theorem exec_read_eq (hexec : exec i s = .next t) {a : Nat} (ha : a % 4096 ∉ (writesOf s i).stores) :
    t.mem.read a = s.mem.read a := by
  obtain ⟨r, rfl⟩ | hframe := exec_effect hexec
  · rfl
  · exact hframe.mem a ha

/-- The framebuffer keeps its value where the matrix does not list it. -/
theorem exec_fb_eq (hexec : exec i s = .next t) (hfb : (writesOf s i).fb = false) : t.fb = s.fb := by
  obtain ⟨r, rfl⟩ | hframe := exec_effect hexec
  · rfl
  · exact hframe.fb hfb

/-- The registers an instruction may write are its destinations, and VF if it writes a flag. -/
theorem isDestination_or_flag_of_mem {q : Reg} (h : q ∈ (writesOf s i).regs) :
    isDestination q i = true ∨ writesFlag i = true ∧ q = 15 := by
  cases i with
  | ldImm | addImm | ldReg | orReg | andReg | xorReg | rnd | ldVxDt =>
    exact .inl (beq_iff_eq.mpr (List.mem_singleton.mp h))
  | addReg | subReg | shr | subnReg | shl =>
    obtain hx | hflag := List.mem_cons.mp h
    · exact .inl (beq_iff_eq.mpr hx)
    · exact .inr ⟨rfl, List.mem_singleton.mp hflag⟩
  | ldVxMem x =>
    obtain ⟨_, hle⟩ := List.mem_filter.mp h
    exact .inl hle
  | drw => exact .inr ⟨rfl, List.mem_singleton.mp h⟩
  | _ => exact absurd h List.not_mem_nil

/-! ### The inputs -/

/-- An instruction other than RND, SKP and SKNP does the same with any inputs sampled. -/
theorem exec_withPorts (p : Ports) (hrnd : ∀ x kk, i ≠ .rnd x kk) (hskp : ∀ x, i ≠ .skp x) (hsknp : ∀ x, i ≠ .sknp x)
    (hexec : exec i s = .next t) :
    exec i (s.setEnv { s.env with ports := p }) = .next (t.setEnv { t.env with ports := p }) := by
  cases i with
  | rnd x kk => exact absurd rfl (hrnd x kk)
  | skp x => exact absurd rfl (hskp x)
  | sknp x => exact absurd rfl (hsknp x)
  | ret =>
    obtain ⟨hempty, h⟩ | ⟨a, rest, hpop, h⟩ := exec_ret_cases s
    · obtain rfl := Host.Outcome.next.inj (hexec.symm.trans h)
      exact exec_ret_nil hempty
    · obtain rfl := Host.Outcome.next.inj (hexec.symm.trans h)
      exact exec_ret_cons hpop
  | call nnn =>
    obtain ⟨hfull, h⟩ | ⟨hroom, h⟩ := exec_call_cases nnn s
    · obtain rfl := Host.Outcome.next.inj (hexec.symm.trans h)
      exact exec_call_full hfull
    · obtain rfl := Host.Outcome.next.inj (hexec.symm.trans h)
      exact exec_call_room hroom
  | _ =>
    obtain rfl := Host.Outcome.next.inj hexec
    rfl

/-! ### The obligations -/

/-- Settles O12: RET and CALL by their two outcomes each, every other instruction by its single answer. -/
theorem everyInstructionCompletes : Obligations.EveryInstructionCompletes := exec_completes

/-- Settles O24: the rules that do not assign pc all end with an advance. -/
theorem otherInstructionsGoToTheNextWord : Obligations.OtherInstructionsGoToTheNextWord := fun i s t hpc hexec => by
  cases i with
  | ret | jp | call | jpV0 | seImm | sneImm | seReg | sneReg | skp | sknp => exact Bool.noConfusion hpc
  | _ =>
    obtain rfl := Host.Outcome.next.inj hexec
    rfl

/-- Settles O32: VF is what `flagByte` gives, which nothing overwrites. -/
theorem flagIsZeroOrOne : Obligations.FlagIsZeroOrOne := fun i s t hflag hdest hexec => by
  cases i with
  | addReg x y | subReg x y | shr x y | subnReg x y | shl x y =>
    obtain rfl := Host.Outcome.next.inj hexec
    have hx : x ≠ 15 := Ne.symm (by simpa [isDestination] using hdest)
    rw [State.advance_eq, State.setPc_reg, State.writeFlagThenResult_reg_flag _ _ _ hx]
    exact flagByte_zero_or_one _
  | drw x y n =>
    obtain rfl := Host.Outcome.next.inj ((exec_drw x y n s).symm.trans hexec)
    rw [drawn_reg_flag]
    exact flagByte_zero_or_one _
  | _ => exact Bool.noConfusion hflag

/-- Settles O33: the access matrix lists destinations and flags only. -/
theorem registersChangeOnlyAsTheAccessMatrixSays : Obligations.RegistersChangeOnlyAsTheAccessMatrixSays :=
  fun i s t q hexec hdest hflag => exec_reg_eq hexec fun hmem => by
    obtain hd | ⟨hf, hq⟩ := isDestination_or_flag_of_mem hmem
    · simp [hdest] at hd
    · simp [hf, hq] at hflag

/-- Settles O34: only the arms of RND, SKP and SKNP look at the sampled inputs. -/
theorem onlyRandomAndKeySkipsReadTheInputs : Obligations.OnlyRandomAndKeySkipsReadTheInputs :=
  fun _ _ _ p hrnd hskp hsknp hexec => exec_withPorts p hrnd hskp hsknp hexec

/-- Settles O41: the access matrix lists stored addresses for the two stores only. -/
theorem onlyStoresChangeMemory : Obligations.OnlyStoresChangeMemory := fun i s t a hexec hldB hldMemVx => by
  refine exec_read_eq hexec ?_
  cases i with
  | ldB x => exact absurd rfl (hldB x)
  | ldMemVx x => exact absurd rfl (hldMemVx x)
  | _ => exact List.not_mem_nil

/-- Settles O47: the access matrix lists the framebuffer for CLS and DRW only. -/
theorem onlyClearAndDrawChangeTheFramebuffer : Obligations.OnlyClearAndDrawChangeTheFramebuffer :=
  fun i s t hexec hcls hdrw => by
  refine exec_fb_eq hexec ?_
  cases i with
  | cls => exact absurd rfl hcls
  | drw x y n => exact absurd rfl (hdrw x y n)
  | _ => rfl

end Sys2Proof.Machine
end

section
/-! Whether a run has ended (70_reset_and_hazards.md R184) does not depend on the host's side. -/

namespace Sys2Proof.Safety

open Sys2Proof.Machine

theorem EndedNormally.setEnv {s : State} (h : EndedNormally s) (e : Env) : EndedNormally (s.setEnv e) :=
  ⟨h.noFault, h.notWaiting, h.below, h.jumpsToItself⟩

end Sys2Proof.Safety
end

section
/-! A step of the machine (40_step_and_flow.md R80): with an instruction to execute, with an unknown word, with a fault
recorded, and with the latch waiting. -/

namespace Sys2Proof.Machine

open Sys2Proof.Safety

variable {s t : State} {p : Option Ports} {rest : List HostAction} {i : Instr}

/-! ### The state an instruction executes at -/

/-- `s` as the step takes it from the agenda and samples its inputs. -/
def State.stepInput (s : State) (p : Option Ports) (rest : List HostAction) : State :=
  (s.withAgenda rest).running.sample p

/-- Taking a step from the agenda and sampling its inputs changes the host's side only. -/
theorem State.stepInput_eq (s : State) (p : Option Ports) (rest : List HostAction) :
    s.stepInput p rest = s.setEnv (s.stepInput p rest).env := by
  cases p with
  | none => rfl
  | some q => rfl

/-- The host's side of the sampled state but for the inputs. -/
theorem State.stepInput_env (s : State) (p : Option Ports) (rest : List HostAction) :
    (s.stepInput p rest).env.agenda = rest ∧ (s.stepInput p rest).env.phase = .running ∧
      (s.stepInput p rest).env.returned = s.env.returned ∧
      (s.stepInput p rest).env.stackDepth = s.env.stackDepth := by
  cases p with
  | none => exact ⟨rfl, rfl, rfl, rfl⟩
  | some q => exact ⟨rfl, rfl, rfl, rfl⟩

/-- What a step of an instruction returns. -/
theorem stepResult_of_no_fault (h : t.fault = none) : t.stepResult = .done := by simp [State.stepResult, h]

theorem stepResult_of_fault {r : FaultRecord} (h : t.fault = some r) : t.stepResult = .faulted r := by
  simp [State.stepResult, h]

/-- A step that executes an instruction adds to its answer only what it returns. -/
theorem step_executes (h : stepAhead s = some (p, rest)) (hf : s.fault = none) (hl : s.latch = .notWaiting)
    (hd : decodeWord s.fetchWord = .ok i) (hexec : exec i (s.stepInput p rest) = .next t) :
    step s = .next (t.returning t.stepResult) := by
  rw [step_of_stepAhead h, stepTransition_executes (s := (s.withAgenda rest).running) p hf hl hd]
  exact congrArg reportStep hexec

/-- A step of a waiting CORE, faulted or not, changes the host's side only. -/
theorem step_waiting {x : Reg} (h : stepAhead s = some (p, rest)) (hl : s.latch = .waiting x) :
    ∃ e, step s = .next (s.setEnv e) ∧ e.agenda = rest := by
  rw [step_of_stepAhead h]
  cases hf : s.fault with
  | some r => exact ⟨_, stepTransition_faulted (s := (s.withAgenda rest).running) p hf, rfl⟩
  | none => exact ⟨_, stepTransition_waiting (s := (s.withAgenda rest).running) p hf hl, rfl⟩

/-! ### The obligations -/

/-- Settles O7: the answer of exec at the sampled state, with what the step returns added. -/
theorem stepRunsTheDecodedInstruction : Obligations.StepRunsTheDecodedInstruction :=
  fun s p rest i hstep hf hl hd => by
  obtain ⟨t, hexec⟩ := exec_completes i (s.stepInput p rest)
  obtain ⟨hagenda, hphase, hreturned, hdepth⟩ := s.stepInput_env p rest
  have hrun := step_executes hstep hf hl hd hexec
  refine ⟨s.stepInput p rest, t, s.stepInput_eq p rest, hagenda, hphase, hreturned, hdepth, ?_, ?_, hexec,
    fun hnone => ?_, fun r hr => ?_⟩
  · rintro q rfl
    exact ⟨rfl, rfl⟩
  · rintro rfl
    exact ⟨rfl, rfl⟩
  · rw [hrun, stepResult_of_no_fault hnone]
    rfl
  · rw [hrun, stepResult_of_fault hr]
    rfl

/-- Settles O8: a word that selects no row decodes to nothing. -/
theorem unknownWordRaisesUnknownInstruction : Obligations.UnknownWordRaisesUnknownInstruction :=
  fun s p rest hstep hf hl hnone =>
  ⟨_, (step_of_stepAhead hstep).trans
    (stepTransition_unknown (s := (s.withAgenda rest).running) p hf hl (decodeWord_unknown_iff.mpr hnone)),
    rfl, rfl, rfl, rfl, rfl⟩

/-- Settles O9: R80 looks at FAULT before anything else. -/
theorem faultedCoreStepsChangeNothing : Obligations.FaultedCoreStepsChangeNothing := fun s p rest _ hstep hf =>
  ⟨_, (step_of_stepAhead hstep).trans (stepTransition_faulted (s := (s.withAgenda rest).running) p hf), rfl, rfl, rfl⟩

/-- Settles O10: R80 looks at LATCH before it fetches. -/
theorem waitingCoreStepsAreIdle : Obligations.WaitingCoreStepsAreIdle := fun s p rest _ hstep hf hl =>
  ⟨_, (step_of_stepAhead hstep).trans (stepTransition_waiting (s := (s.withAgenda rest).running) p hf hl),
    rfl, rfl, rfl⟩

/-- Settles O60: a jump to itself assigns pc the value it has. -/
theorem endedRunStaysEnded : Obligations.EndedRunStaysEnded := fun s p rest hended hstep => by
  have hjump := step_executes hstep hended.noFault hended.notWaiting hended.jumpsToItself (exec_jp s.pc _)
  have hfault : ((s.stepInput p rest).setPc s.pc).fault = none := by
    rw [State.setPc_fault, s.stepInput_eq p rest]
    exact hended.noFault
  have hcore : (s.stepInput p rest).setPc s.pc = s.setEnv (s.stepInput p rest).env := by
    rw [s.stepInput_eq p rest]
    rfl
  rw [stepResult_of_no_fault hfault, hcore] at hjump
  exact ⟨_, hjump, rfl, rfl, hended.setEnv _⟩

end Sys2Proof.Machine
end

section
/-! The host's transitions (60_exceptions.md R163 to R172, 70_reset_and_hazards.md R180 to R183). -/

namespace Sys2Proof.Machine

open Sys2Proof.Safety

variable {s t : State} {code : Nat} {bytes : List Byte}

/-! ### What they answer -/

/-- A timer counts down by one, floor 0 (R163). -/
theorem countdown_toNat (b : Byte) : (countdown b).toNat = b.toNat - 1 := by
  unfold countdown
  split
  · next h => simp [h]
  · next h =>
    have hpos : 1 ≤ b.toNat := Nat.one_le_iff_ne_zero.mpr fun h0 => h (BitVec.eq_of_toNat_eq h0)
    exact BitVec.toNat_sub_of_le hpos

/-- What a tick does to the timers and the tone, as numbers (R163, decision D17). -/
theorem State.tick_spec (s : State) : s.tick.dt.toNat = s.dt.toNat - 1 ∧ s.tick.st.toNat = s.st.toNat - 1 ∧
    s.tick.tone = decide (s.tick.st.toNat > 0) := by
  refine ⟨countdown_toNat s.dt, countdown_toNat s.st, ?_⟩
  rw [State.tick_eq, State.setTone_tone, State.setTone_st, State.setSt_st, decide_eq_decide, gt_iff_lt,
    Nat.pos_iff_ne_zero, not_iff_not]
  exact BitVec.toNat_inj.symm

/-- Only the last assignment to the host's side counts. -/
theorem State.setEnv_setEnv (s : State) (e e' : Env) : (s.setEnv e).setEnv e' = s.setEnv e' := rfl

/-- A tick neither reads nor writes the host's side. -/
theorem State.tick_setEnv (s : State) (e : Env) : (s.setEnv e).tick = s.tick.setEnv e := by
  simp only [State.tick_eq, State.setEnv_dt, State.setEnv_st]
  rfl

/-- The transition `tick` as one update of the CORE and one of the host's side. -/
theorem step_tick_setEnv {rest : List HostAction} (h : s.env.agenda = .tick :: rest) : step s = .next (s.tick.setEnv
    { s.env with agenda := rest, phase := .running, returned := .tone s.tick.tone }) := by
  rw [step_tick h, State.returning_eq, State.running_eq, State.withAgenda_eq, State.setEnv_setEnv, State.tick_setEnv,
    State.setEnv_setEnv]
  rfl

/-- A key event ends the wait of a waiting latch (R166). -/
theorem State.keyDown_waiting {x : Reg} (h : s.latch = .waiting x) :
    s.keyDown code = (s.setReg x (BitVec.ofNat 8 code)).setLatch .notWaiting := by simp [State.keyDown, h]

/-- A key event is ignored when the latch does not wait (decision D14). -/
theorem State.keyDown_notWaiting (h : s.latch = .notWaiting) : s.keyDown code = s := by simp [State.keyDown, h]

/-- A key event writes the awaited register and the latch only. -/
theorem State.keyDown_eq (s : State) (code : Nat) :
    s.keyDown code = { s with v := (s.keyDown code).v, latch := (s.keyDown code).latch } := by
  cases h : s.latch with
  | waiting x => rw [State.keyDown_waiting h]; rfl
  | notWaiting => rw [State.keyDown_notWaiting h]

theorem keyDownAction_of_le (h : code ≤ 15) : keyDownAction code s = .next ((s.keyDown code).returning .nothing) :=
  if_neg (Nat.not_lt.mpr h)

theorem keyDownAction_of_lt (h : 15 < code) : keyDownAction code s = .refused (.keyCodeOutsideInterface code) :=
  if_pos h

theorem loadProgramAction_tooLong (h : 3584 < bytes.length) :
    loadProgramAction bytes s = .refused (.programTooLong bytes.length) := if_pos h

theorem loadProgramAction_running (h : bytes.length ≤ 3584) (hphase : s.env.phase = .running) :
    loadProgramAction bytes s = .refused .loadAfterBoot := by
  simp [loadProgramAction, Nat.not_lt.mpr h, hphase]

theorem loadProgramAction_booting (h : bytes.length ≤ 3584) (hphase : s.env.phase = .booting) :
    loadProgramAction bytes s = .next (((s.setMem (s.mem.writeBytes 0x200 bytes)).running).returning .nothing) := by
  simp [loadProgramAction, Nat.not_lt.mpr h, hphase]

/-- A key event that is not refused has a code up to 15. -/
theorem keyDownAction_next (h : keyDownAction code s = .next t) : t = (s.keyDown code).returning .nothing := by
  by_cases hcode : code ≤ 15
  · exact Host.Outcome.next.inj (h.symm.trans (keyDownAction_of_le hcode))
  · rw [keyDownAction_of_lt (Nat.lt_of_not_le hcode)] at h
    simp at h

/-- A load that is not refused writes the image. -/
theorem loadProgramAction_next (h : loadProgramAction bytes s = .next t) :
    t = ((s.setMem (s.mem.writeBytes 0x200 bytes)).running).returning .nothing := by
  by_cases hlen : bytes.length ≤ 3584
  · cases hphase : s.env.phase with
    | booting => exact Host.Outcome.next.inj (h.symm.trans (loadProgramAction_booting hlen hphase))
    | running =>
      rw [loadProgramAction_running hlen hphase] at h
      simp at h
  · rw [loadProgramAction_tooLong (Nat.lt_of_not_le hlen)] at h
    simp at h

/-- Of memory as it is after reset, bytes 0 to 79 are the glyphs and the others 0 (10_state.md R28). -/
theorem Memory.read_nil {a : Nat} (h : a < 4096) : Memory.read [] a = Config.glyphs.getD a 0 := by
  rw [Memory.read, Nat.mod_eq_of_lt h]
  rfl

/-! ### The obligations -/

/-- Settles O51: a tick looks at the two timers only. -/
theorem tickDecrementsAndRecomputesTone : Obligations.TickDecrementsAndRecomputesTone := fun s _ h => by
  obtain ⟨hdt, hst, htone⟩ := s.tick_spec
  exact ⟨_, step_tick_setEnv h, hdt, hst, htone, rfl⟩

/-- Settles O53: by the two values of the latch. -/
theorem keyDownResolvesTheLatch : Obligations.KeyDownResolvesTheLatch := fun s code rest h hcode => by
  refine ⟨_, (step_keyDown h).trans (keyDownAction_of_le hcode), ?_, fun x hl => ?_, fun hl => ?_⟩
  · rw [State.keyDown_eq]
    rfl
  · rw [State.keyDown_waiting (s := (s.withAgenda rest).running) hl]
    refine ⟨?_, fun q hq => ?_, rfl⟩
    · simp
      omega
    · simp [hq]
  · rw [State.keyDown_notWaiting (s := (s.withAgenda rest).running) hl]
    rfl

/-- Settles O54: the code is checked before anything else. -/
theorem keyCodeAbove15IsRefused : Obligations.KeyCodeAbove15IsRefused := fun _ _ _ h hcode =>
  (step_keyDown h).trans (keyDownAction_of_lt hcode)

/-- Settles O56: the image is shorter than memory, so it does not wrap onto itself. -/
theorem loadProgramPlacesTheImage : Obligations.LoadProgramPlacesTheImage := fun s bytes rest h hphase hlen => by
  have hload := loadProgramAction_booting (s := s.withAgenda rest) hlen hphase
  refine ⟨_, (step_loadProgram h).trans hload, fun k hk => ?_, fun a ha => ?_, rfl, rfl, rfl⟩
  · exact Memory.read_writeBytes_inside s.mem 0x200 k bytes hk (by omega)
  · exact Memory.read_writeBytes_outside s.mem 0x200 a bytes fun k hk => by omega

/-- Settles O57: the length is checked first, then the phase. -/
theorem otherProgramLoadsAreRefused : Obligations.OtherProgramLoadsAreRefused := fun s _ rest h =>
  ⟨fun hlong => (step_loadProgram h).trans (loadProgramAction_tooLong hlong), fun hlen hphase =>
    (step_loadProgram h).trans (loadProgramAction_running (s := s.withAgenda rest) hlen hphase)⟩

/-- Settles O58: the reset state is a constant but for the host's side. -/
theorem resetGivesTheResetValues : Obligations.ResetGivesTheResetValues := fun s rest h => by
  refine ⟨_, step_reset h, rfl, rfl, rfl, fun q => ?_, rfl, rfl, fun px py _ _ => pixel_zero px py, rfl, rfl, rfl,
    fun a ha => ?_, fun a hlow hhigh => ?_, rfl, rfl, rfl⟩
  · exact Vector.getElem_replicate q.isLt
  · exact Memory.read_nil (by omega)
  · have hglyphs : Config.glyphs.length = 80 := rfl
    exact (Memory.read_nil hhigh).trans (List.getD_eq_default _ _ (hglyphs ▸ hlow))

/-- Settles O59: the framebuffer is returned as it is held. -/
theorem snapshotReturnsTheFramebuffer : Obligations.SnapshotReturnsTheFramebuffer := fun s _ h =>
  ⟨_, s.fb, step_snapshot h, rfl, fun _ _ _ _ => rfl, rfl⟩

end Sys2Proof.Machine
end

section
/-! Which updates of the state keep the invariant (10_state.md R31). -/

namespace Sys2Proof.Safety

open Sys2Proof.Machine

variable {s t : State}

/-- The invariant speaks of I, the stack, memory and STACK_DEPTH only. -/
theorem Inv.congr (h : Inv s) (hi : t.i = s.i) (hstack : t.stack = s.stack) (hmem : t.mem = s.mem)
    (hdepth : t.env.stackDepth = s.env.stackDepth) : Inv t where
  index := hi ▸ h.index
  stack d hd := hstack ▸ h.stack d (hdepth ▸ hd)
  memory := hmem ▸ h.memory

/-- I may be set below 4096. -/
theorem Inv.setI (h : Inv s) {a : Word} (ha : a.toNat < 4096) : Inv (s.setI a) where
  index := ha
  stack := h.stack
  memory := h.memory

/-- Any bytes may be written to memory. -/
theorem Inv.setMem_writeBytes (h : Inv s) (a : Nat) (bytes : List Byte) :
    Inv (s.setMem (s.mem.writeBytes a bytes)) where
  index := h.index
  stack := h.stack
  memory := Memory.wf_writeBytes s.mem a bytes h.memory

/-- The stack may be set up to STACK_DEPTH. -/
theorem Inv.setStack (h : Inv s) {l : List Word} (hl : ∀ d, s.env.stackDepth = some d → l.length ≤ d) :
    Inv (s.setStack l) where
  index := h.index
  stack := hl
  memory := h.memory

theorem Inv.setPc (h : Inv s) (a : Word) : Inv (s.setPc a) := h.congr rfl rfl rfl rfl

/-- The host's side may be set if STACK_DEPTH stays. -/
theorem Inv.setEnv (h : Inv s) {e : Env} (hdepth : e.stackDepth = s.env.stackDepth) : Inv (s.setEnv e) :=
  h.congr rfl rfl rfl hdepth

theorem Inv.returning (h : Inv s) (r : Returned) : Inv (s.returning r) := h.setEnv rfl

/-- Sampling the inputs keeps the invariant. -/
theorem Inv.sample (h : Inv s) (p : Option Ports) : Inv (s.sample p) := by
  cases p with
  | none => exact h.setEnv rfl
  | some q => exact h.setEnv rfl

/-- A key event keeps the invariant. -/
theorem Inv.keyDown (h : Inv s) (code : Nat) : Inv (s.keyDown code) := by
  rw [State.keyDown_eq]
  exact h.congr rfl rfl rfl rfl

/-- The invariant holds at reset, whatever the host's side. -/
theorem inv_reset (e : Env) : Inv (State.reset.setEnv e) where
  index := Nat.zero_lt_succ 4095
  stack _ _ := Nat.zero_le _
  memory := rfl

end Sys2Proof.Safety
end

section
/-! The invariant (10_state.md R31) holds at reset and every transition keeps it; a recorded fault stays until reset. -/

namespace Sys2Proof.Machine

open Sys2Proof.Safety

variable {s t : State} {p : Option Ports} {i : Instr}

/-! ### Instructions -/

/-- Every well-formed instruction keeps the invariant: a CALL has room, and I is set below 4096. -/
theorem exec_keeps_inv (hwf : i.wellFormed = true) (h : Inv s) (hexec : exec i s = .next t) : Inv t := by
  cases i with
  | ret =>
    obtain ⟨_, hx⟩ | ⟨a, rest, hpop, hx⟩ := exec_ret_cases s
    · obtain rfl := Host.Outcome.next.inj (hx.symm.trans hexec)
      exact h.congr rfl rfl rfl rfl
    · obtain rfl := Host.Outcome.next.inj (hx.symm.trans hexec)
      refine (h.setStack fun d hd => ?_).setPc a
      have hle := h.stack d hd
      rw [hpop, List.length_cons] at hle
      omega
  | call nnn =>
    obtain ⟨_, hx⟩ | ⟨hroom, hx⟩ := exec_call_cases nnn s
    · obtain rfl := Host.Outcome.next.inj (hx.symm.trans hexec)
      exact h.congr rfl rfl rfl rfl
    · obtain rfl := Host.Outcome.next.inj (hx.symm.trans hexec)
      refine (h.setStack fun d hd => ?_).setPc nnn
      exact State.stackFull_eq_false_iff.mp hroom d hd
  | ldI nnn =>
    obtain rfl := Host.Outcome.next.inj hexec
    exact (h.setI (of_decide_eq_true hwf)).setPc _
  | addI x =>
    obtain rfl := Host.Outcome.next.inj ((exec_addI x s).symm.trans hexec)
    refine (h.setI ?_).setPc _
    rw [ofNat_mod_4096_toNat]
    exact Nat.mod_lt _ (by decide)
  | ldF x =>
    obtain rfl := Host.Outcome.next.inj ((exec_ldF x s).symm.trans hexec)
    have hlt := (s.reg x).isLt
    refine (h.setI ?_).setPc _
    rw [zext16_mul_five_toNat]
    omega
  | ldB x =>
    obtain rfl := Host.Outcome.next.inj ((exec_ldB x s).symm.trans hexec)
    exact (h.setMem_writeBytes _ _).setPc _
  | ldMemVx x =>
    obtain rfl := Host.Outcome.next.inj ((exec_ldMemVx x s).symm.trans hexec)
    exact (h.setMem_writeBytes _ _).setPc _
  | _ =>
    obtain rfl := Host.Outcome.next.inj hexec
    exact h.congr rfl rfl rfl rfl

/-! ### Transitions -/

/-- The step of R80 keeps the invariant, in each of its four cases. -/
theorem stepTransition_keeps_inv (h : Inv s) (hstep : stepTransition p s = .next t) : Inv t := by
  obtain ⟨r, _, rfl⟩ | ⟨x, _, _, rfl⟩ | ⟨e, _, _, _, rfl⟩ | ⟨i, u, _, _, hd, hexec, rfl⟩ := stepTransition_cases hstep
  · exact h.returning _
  · exact h.returning _
  · exact h.congr rfl rfl rfl rfl
  · obtain ⟨hwf, _⟩ := encode_of_decodeWord hd
    exact (exec_keeps_inv hwf (h.sample p) hexec).returning _

/-! ### The obligations -/

/-- Settles O13: the reset state has I = 0, an empty stack and memory that lists nothing. -/
theorem resetMeetsTheInvariant : Obligations.ResetMeetsTheInvariant := inv_reset Env.reset

/-- Settles O14: by the six transitions of the host's interface. -/
theorem everyStepKeepsTheInvariant : Obligations.EveryStepKeepsTheInvariant := fun s t h hstep => by
  have htaken (rest : List HostAction) : Inv (s.withAgenda rest) := h.setEnv rfl
  have hrunning (rest : List HostAction) : Inv (s.withAgenda rest).running := (htaken rest).setEnv rfl
  obtain ⟨p, rest, _, hs⟩ | ⟨rest, ha, _⟩ | ⟨code, rest, _, hs⟩ | ⟨rest, _, hs⟩ | ⟨rest, _, hs⟩ |
    ⟨bytes, rest, _, hs⟩ := step_cases s
  · exact stepTransition_keeps_inv (hrunning rest) (hs.symm.trans hstep)
  · obtain rfl := Host.Outcome.next.inj ((step_tick_setEnv ha).symm.trans hstep)
    exact h.congr rfl rfl rfl rfl
  · obtain rfl := keyDownAction_next (hs.symm.trans hstep)
    exact ((hrunning rest).keyDown code).returning _
  · obtain rfl := Host.Outcome.next.inj (hs.symm.trans hstep)
    exact (htaken rest).returning _
  · obtain rfl := Host.Outcome.next.inj (hs.symm.trans hstep)
    exact inv_reset _
  · obtain rfl := loadProgramAction_next (hs.symm.trans hstep)
    exact ((htaken rest).setMem_writeBytes 0x200 bytes).congr rfl rfl rfl rfl

/-- Settles O11: no transition but reset assigns FAULT when it holds a record. -/
theorem recordedFaultStaysUntilReset : Obligations.RecordedFaultStaysUntilReset := fun s t r hf hstep => by
  obtain ⟨p, rest, _, hs⟩ | ⟨rest, ha, _⟩ | ⟨code, rest, _, hs⟩ | ⟨rest, _, hs⟩ | ⟨rest, ha, _⟩ |
    ⟨bytes, rest, _, hs⟩ := step_cases s
  · have hkeep := stepTransition_faulted (s := (s.withAgenda rest).running) p hf
    obtain rfl := Host.Outcome.next.inj ((hs.trans hkeep).symm.trans hstep)
    exact .inl hf
  · obtain rfl := Host.Outcome.next.inj ((step_tick_setEnv ha).symm.trans hstep)
    exact .inl hf
  · obtain rfl := keyDownAction_next (hs.symm.trans hstep)
    rw [State.keyDown_eq]
    exact .inl hf
  · obtain rfl := Host.Outcome.next.inj (hs.symm.trans hstep)
    exact .inl hf
  · exact .inr ⟨rest, ha⟩
  · obtain rfl := loadProgramAction_next (hs.symm.trans hstep)
    exact .inl hf

end Sys2Proof.Machine
end

section
/-! Runs of transitions: ticks, and a key wait (60_exceptions.md R163, R166). -/

namespace Sys2Proof.Machine

open Sys2Proof.Safety

variable {s : State} {x : Reg} {rest : List HostAction}

/-! ### Ticks -/

/-- A run of ticks is that many ticks of the CORE. -/
theorem run_ticks (n : Nat) (h : s.env.agenda = List.replicate n .tick ++ rest) :
    ∃ e, core.run n s = .next ((State.tick^[n] s).setEnv e) ∧ e.agenda = rest := by
  induction n generalizing s with
  | zero => exact ⟨s.env, rfl, h⟩
  | succ n ih =>
    obtain ⟨e', hstep, he'⟩ : ∃ e', step s = .next (s.tick.setEnv e') ∧ e'.agenda = List.replicate n .tick ++ rest :=
      ⟨_, step_tick_setEnv h, rfl⟩
    obtain ⟨e, hrun, hagenda⟩ := ih (s := s.tick.setEnv e') he'
    refine ⟨e, ?_, hagenda⟩
    have hcommute : State.tick^[n] (s.tick.setEnv e') = (State.tick^[n] s.tick).setEnv e' :=
      Function.Commute.iterate_left (g := fun u => u.setEnv e') (fun u => u.tick_setEnv e') n s.tick
    rw [run_succ core n hstep, hrun, hcommute, State.setEnv_setEnv, Function.iterate_succ_apply]

/-- What any number of ticks does to the timers and the tone: the last tick settles the tone. -/
theorem iterate_tick_spec (n : Nat) (s : State) : (State.tick^[n] s).dt.toNat = s.dt.toNat - n ∧
    (State.tick^[n] s).st.toNat = s.st.toNat - n ∧
    (0 < n → (State.tick^[n] s).tone = decide (n < s.st.toNat)) := by
  induction n with
  | zero => exact ⟨rfl, rfl, fun hn => absurd hn (lt_irrefl 0)⟩
  | succ n ih =>
    obtain ⟨ihdt, ihst, _⟩ := ih
    obtain ⟨hdt, hst, htone⟩ := (State.tick^[n] s).tick_spec
    rw [Function.iterate_succ_apply']
    refine ⟨by omega, by omega, fun _ => ?_⟩
    rw [htone, decide_eq_decide]
    omega

/-- Ticks change the timers and the tone only. -/
theorem iterate_tick_frame (n : Nat) (s : State) : State.tick^[n] s =
    { s with
      dt := (State.tick^[n] s).dt, st := (State.tick^[n] s).st, tone := (State.tick^[n] s).tone } := by
  induction n with
  | zero => rfl
  | succ n ih =>
    rw [Function.iterate_succ_apply', ih]
    rfl

/-- Settles O52: n ticks of the CORE, each of which counts down by one. -/
theorem ticksCountDownToZero : Obligations.TicksCountDownToZero := fun n s rest h => by
  obtain ⟨e, hrun, hagenda⟩ := run_ticks n h
  obtain ⟨hdt, hst, htone⟩ := iterate_tick_spec n s
  refine ⟨_, hrun, hdt, hst, htone, hagenda, ?_⟩
  rw [iterate_tick_frame n s]
  rfl

/-! ### A key wait -/

/-- Steps of a waiting CORE use up their actions and change nothing else. -/
theorem run_steps_waiting (ps : List Ports) (k : Nat) (hl : s.latch = .waiting x)
    (h : s.env.agenda = ps.map .step ++ rest) :
    ∃ e, core.run (ps.length + k) s = core.run k (s.setEnv e) ∧ e.agenda = rest := by
  induction ps generalizing s with
  | nil => exact ⟨s.env, by rw [List.length_nil, Nat.zero_add]; rfl, h⟩
  | cons p ps ih =>
    have hahead : stepAhead s = some (some p, ps.map .step ++ rest) := by simp [stepAhead, h]
    obtain ⟨e, hstep, he⟩ := step_waiting hahead hl
    obtain ⟨e', hrun, hrest⟩ := ih (s := s.setEnv e) hl he
    refine ⟨e', ?_, hrest⟩
    rw [List.length_cons, Nat.add_right_comm, run_succ core _ hstep, hrun, State.setEnv_setEnv]

/-- Settles O55: the steps change nothing, then the key event resolves the latch. -/
theorem keyWaitLastsUntilTheNextKeyEvent : Obligations.KeyWaitLastsUntilTheNextKeyEvent :=
  fun ps s x code rest hl hcode h => by
  obtain ⟨e, hrun, hagenda⟩ := run_steps_waiting ps 1 hl h
  have hkey : step (s.setEnv e) = _ := (step_keyDown hagenda).trans (keyDownAction_of_le hcode)
  rw [State.keyDown_waiting (s := ((s.setEnv e).withAgenda rest).running) hl] at hkey
  refine ⟨_, hrun.trans (run_succ core 0 hkey), rfl, rfl, fun q => ?_⟩
  simp

end Sys2Proof.Machine
end
